-- ==== Sys2Proof/Word.lean ====
section
/-! DEFINITION. The word types of the Tid CORE block: bytes (spec 00_scope.md R10), 32-bit command and register words
(30_encoding.md R80, 10_state.md R40) and the 16-byte identifier (00_scope.md R6, 40_codec.md R100). -/

namespace Sys2Proof

/-- A byte: 8 bits, an integer 0 to 255 (R10). -/
abbrev Byte := BitVec 8

/-- A command word on the command port, or the value of a result register: 32 bits (R80, R40). -/
abbrev Word := BitVec 32

/-- The identifier, and the working buffer that holds it: exactly 16 bytes, byte 0 first (R6 `ID_BYTES`, R100). -/
abbrev Ident := Vector Byte 16

end Sys2Proof
end

