-- ==== Sys2Proof/Config.lean ====
section
/-! DEFINITION. What an implementation fixes (the parameters of 00_scope.md R7, given no value here), the free values
that the three input ports deliver (R13), and the constants of 00_scope.md R6.

An `opaque` constant has no body: nothing can be proved about it, so a statement that holds here holds for every value
of the parameter and for every value a port delivers. -/

namespace Sys2Proof.Config

/-- Free: how many bytes `DIGEST_LEN` has above its least legal value 2 (R7). Log entry 4. -/
opaque digestLenExtra : Nat

/-- Free: byte `k` of `DIGEST(m)` (R7, R8: an uninterpreted function of the message alone). Log entry 4. -/
opaque digestByte : List Byte → Nat → Byte

/-- `DIGEST_LEN`, the same for every message and at least 2 (R7). -/
def digestLen : Nat := digestLenExtra + 2

/-- `DIGEST`, the cryptographic digest TID leaves unnamed (R7, R8). -/
def digest (m : List Byte) : List Byte := (List.range digestLen).map (digestByte m)

/-- Free: how far `SECRET_MAX` lies above its least legal value 1 (R7). Log entry 5. -/
opaque secretMaxExtra : Nat

/-- `SECRET_MAX`, the capacity in bytes of a key slot and of the key staging buffer, at least 1 (R7). -/
def secretMax : Nat := secretMaxExtra + 1

/-- Free: `CACHE_ENTRIES`, the number of entries of the fingerprint cache, possibly 0 (R7). Log entry 6. -/
opaque cacheEntries : Nat

/-- Free: what the time port shows at its `k`-th sample (R13, R212). Log entry 7. -/
opaque timeSample : Nat → BitVec 64

/-- Free: the `k`-th byte the random port delivers (R13, R213). Log entry 8. -/
opaque randomByte : Nat → Byte

/-- Free: what the selector port shows at its `k`-th read (R13, R214). Log entry 9. -/
opaque selectorChoice : Nat → Fin 16

/-- `VERSION`: the protocol version GENERATE writes and DECODE requires (R2, R6). -/
def version : BitVec 3 := 1

/-- `LABEL_MAX`: the greatest legal length of a type label (R6). -/
def labelMax : Nat := 255

end Sys2Proof.Config
end

