-- ==== Sys2Proof/Syntax.lean ====
section
/-! DEFINITION. The instruction set: one constructor for each of the fourteen commands of 30_encoding.md R83 and R84,
with the operands of R82, and the small enumerations that operands and results are read as. -/

namespace Sys2Proof

/-- The selection policy of the keyring: `SM` and `SEL_MODE` (R26, R82: 0 random policy, 1 fixed index). -/
inductive SelMode where
  | random
  | fixed
  deriving DecidableEq, Repr

/-- The identifier's mode (R15, R107: RANDOM is 0, TIME_SORTED is 1). -/
inductive Mode where
  | random
  | timeSorted
  deriving DecidableEq, Repr

/-- The length `t` of the verification tag: 1 or 2 bytes (R6). -/
inductive TagLen where
  | one
  | two
  deriving DecidableEq, Repr

/-- The fourteen commands. `Nat` and `Int` operands are the unsigned and signed integers R82 speaks of; WellFormed.lean
says which values a command word can carry. -/
inductive Instr where
  /-- NOP (R170). -/
  | nop
  /-- KEYRST (R135). -/
  | keyrst
  /-- KEYPUT imm8 (R136). -/
  | keyput (imm8 : Byte)
  /-- KEYLOAD idx8, the operand read as a signed integer (R82, R137). -/
  | keyload (idx : Int)
  /-- SEAL SM, FIX (R139). -/
  | sealKeyring (sm : SelMode) (fix : BitVec 4)
  /-- LBLRST (R160). -/
  | lblrst
  /-- LBLPUT imm8 (R161). -/
  | lblput (imm8 : Byte)
  /-- LBLNUL (R162). -/
  | lblnul
  /-- IDRST (R171). -/
  | idrst
  /-- IDPUT imm8 (R172). -/
  | idput (imm8 : Byte)
  /-- IDMOV (R173). -/
  | idmov
  /-- FPRINT (R163). -/
  | fprint
  /-- GENERATE MD, TL: the raw two mode bits and the tag length as an unsigned integer (R82, R175). -/
  | generate (md : BitVec 2) (tl : Nat)
  /-- DECODE (R177). -/
  | decode
  deriving DecidableEq, Repr

end Sys2Proof
end

