-- ==== Sys2Proof/WellFormed.lean ====
section
/-! DEFINITION. Which instruction terms a command word can carry: the ranges of R82. A well-formed term can still hold
an operand value that the command refuses by an error of its own (30_encoding.md R86); that is no matter of form. -/

namespace Sys2Proof

/-- `idx8` is an 8-bit two's complement field: -128 to 127 (R82, R88). -/
def keyIndexInField (idx : Int) : Bool := decide (-128 ≤ idx ∧ idx ≤ 127)

/-- `TL` is an 8-bit unsigned field: 0 to 255 (R82, R88). -/
def tagLengthInField (tl : Nat) : Bool := decide (tl ≤ 255)

/-- Every operand of the instruction fits the field that carries it. The other operands fit by their types. -/
def Instr.wellFormed : Instr → Bool
  | .nop => true
  | .keyrst => true
  | .keyput _ => true
  | .keyload idx => keyIndexInField idx
  | .sealKeyring _ _ => true
  | .lblrst => true
  | .lblput _ => true
  | .lblnul => true
  | .idrst => true
  | .idput _ => true
  | .idmov => true
  | .fprint => true
  | .generate _ tl => tagLengthInField tl
  | .decode => true

end Sys2Proof
end

