-- ==== Sys2Proof/Decode.lean ====
section
/-! DEFINITION. The decoder `decode_cmd` of 30_encoding.md R80 to R87, total on the 2^32 words, and the encoder written
from the same tables. A command is one 32-bit word; it is not a byte sequence and has no byte order (20_memory.md
R65), so the decoder reads the word as it stands on the command port. -/

namespace Sys2Proof

/-- Why a word is illegal (R85). Executing it raises E_ILLEGAL either way. -/
inductive DecodeError where
  /-- No row of the opcode map has this `OP`. -/
  | unknownOpcode (op : Byte)
  /-- The `OP` is listed and a bit outside the format's fields is 1. -/
  | reservedBits (op : Byte)
  deriving DecidableEq, Repr

/-! ### The five formats of R81 -/

/-- `OP = w[31:24]` (R80). -/
def opField (w : Word) : Byte := w.extractLsb' 24 8

/-- The low byte of the word: `imm8`, `idx8` and `TL` (R81). -/
def lowByte (w : Word) : Byte := w.extractLsb' 0 8

/-- The command `i`, unless a bit that the format reserves is 1 (R81, R85). -/
def unlessReserved (w : Word) (reservedClear : Bool) (i : Instr) : Except DecodeError Instr :=
  if reservedClear then .ok i else .error (.reservedBits (opField w))

/-- Format Z: `w[23:0]` is reserved. -/
def formatZ (w : Word) (i : Instr) : Except DecodeError Instr :=
  unlessReserved w (w.extractLsb' 0 24 == 0) i

/-- Formats B and K: one byte `w[7:0]`; `w[23:8]` is reserved. -/
def formatB (w : Word) (i : Byte → Instr) : Except DecodeError Instr :=
  unlessReserved w (w.extractLsb' 8 16 == 0) (i (lowByte w))

/-- `SM = w[8]`: 0 the random policy, 1 the fixed index (R82). -/
def selModeOfBit (sm : BitVec 1) : SelMode := if sm = 1 then .fixed else .random

/-- Format S: `FIX = w[3:0]`, `SM = w[8]`; `w[7:4]` and `w[23:9]` are reserved. -/
def formatS (w : Word) : Except DecodeError Instr :=
  unlessReserved w (w.extractLsb' 4 4 == 0 && w.extractLsb' 9 15 == 0)
    (.sealKeyring (selModeOfBit (w.extractLsb' 8 1)) (w.extractLsb' 0 4))

/-- Format G: `TL = w[7:0]`, `MD = w[9:8]`; `w[23:10]` is reserved. -/
def formatG (w : Word) : Except DecodeError Instr :=
  unlessReserved w (w.extractLsb' 10 14 == 0) (.generate (w.extractLsb' 8 2) (lowByte w).toNat)

/-- `decode_cmd` (R87): the opcode map of R83, by `OP`. It does not depend on the state. -/
def decodeWord (w : Word) : Except DecodeError Instr :=
  match opField w with
  | 0x00#8 => formatZ w .nop
  | 0x01#8 => formatZ w .keyrst
  | 0x02#8 => formatB w .keyput
  | 0x03#8 => formatB w fun idx8 => .keyload idx8.toInt
  | 0x04#8 => formatS w
  | 0x08#8 => formatZ w .lblrst
  | 0x09#8 => formatB w .lblput
  | 0x0A#8 => formatZ w .lblnul
  | 0x0C#8 => formatZ w .idrst
  | 0x0D#8 => formatB w .idput
  | 0x0E#8 => formatZ w .idmov
  | 0x10#8 => formatZ w .fprint
  | 0x11#8 => formatG w
  | 0x12#8 => formatZ w .decode
  | op => .error (.unknownOpcode op)

/-- The 32-bit word of an opcode-table entry: bit 0 of `w` is the word's bit 0; the table gives every row 32 bits, and
a bit of `w` at or above `nbits` is no bit of the instruction (log entry 17). -/
def tableWord (nbits w : Nat) : Word := BitVec.ofNat 32 (w % 2 ^ nbits)

/-- The instruction the decoder reads from an instruction whose bits are `w`; `none` where the word is illegal. -/
def decodeTableWord (nbits w : Nat) : Option Instr :=
  match decodeWord (tableWord nbits w) with
  | .ok i => some i
  | .error _ => none

/-! ### The encoder (R81, R83, R88) -/

/-- The `SM` bit. -/
def SelMode.bit : SelMode → BitVec 1
  | .random => 0
  | .fixed => 1

/-- A word of format Z. -/
def wordZ (op : Byte) : Word := op ++ 0#24

/-- A word of format B or K. -/
def wordB (op low : Byte) : Word := op ++ 0#16 ++ low

/-- The command word of an instruction (its operands cut to their fields where it is not well-formed). -/
def encode : Instr → Word
  | .nop => wordZ 0x00
  | .keyrst => wordZ 0x01
  | .keyput imm8 => wordB 0x02 imm8
  | .keyload idx => wordB 0x03 (BitVec.ofInt 8 idx)
  | .sealKeyring sm fix => 0x04#8 ++ 0#15 ++ sm.bit ++ 0#4 ++ fix
  | .lblrst => wordZ 0x08
  | .lblput imm8 => wordB 0x09 imm8
  | .lblnul => wordZ 0x0A
  | .idrst => wordZ 0x0C
  | .idput imm8 => wordB 0x0D imm8
  | .idmov => wordZ 0x0E
  | .fprint => wordZ 0x10
  | .generate md tl => 0x11#8 ++ 0#14 ++ md ++ BitVec.ofNat 8 tl
  | .decode => wordZ 0x12

end Sys2Proof
end

