-- ==== Sys2Proof/Machine/Crc.lean ====
section
/-! DEFINITION. The checksum of the CRC Fingerprinter: 43_fingerprint.md R150. -/

namespace Sys2Proof.Machine

/-- `CRC_POLY` (00_scope.md R6). -/
def crcPoly : Byte := 0x07

/-- `CRC_INIT` (00_scope.md R6). -/
def crcInit : Byte := 0x00

/-- One of the eight shifts of R150's inner loop, most significant bit first. -/
def crcShift (c : Byte) : Byte := if c.msb then (c <<< 1) ^^^ crcPoly else c <<< 1

/-- The eight shifts. -/
def crcTable (c : Byte) : Byte :=
  crcShift (crcShift (crcShift (crcShift (crcShift (crcShift (crcShift (crcShift c)))))))

/-- `STEP(c, b)`: one pass of R150's outer loop (R152). -/
def crcStep (c b : Byte) : Byte := crcTable (c ^^^ b)

/-- `CRC8(L)` (R150): the bytes in order, no final exclusive-or. -/
def crc8 (l : List Byte) : Byte := l.foldl crcStep crcInit

end Sys2Proof.Machine
end

