-- ==== Sys2Proof/Machine/Codec.lean ====
section
/-! DEFINITION. The Bit Layout Codec, 40_codec.md: `PREFIX`, `FINISH` and `UNPACK` over the 16-byte buffer, with the
big-endian helpers of 00_scope.md R10. -/

namespace Sys2Proof.Machine

/-! ### Byte sequences (R10) -/

/-- `BE(B)`: the byte at the lowest position is the most significant. -/
def beNat (b : List Byte) : Nat := b.foldl (fun acc x => acc * 256 + x.toNat) 0

/-- `toBE(n, v)`: the `n` bytes whose `BE` is `v mod 2^(8n)`. -/
def toBE (n v : Nat) : List Byte := (List.range n).map fun i => BitVec.ofNat 8 (v / 2 ^ (8 * (n - 1 - i)))

/-- The identifier as a 128-bit number, `V = BE(BUF[0..16))` (R100, 20_memory.md R64). -/
def identValue (id : Ident) : BitVec 128 := BitVec.ofNat 128 (beNat id.toList)

/-- The first 64-bit half, `HI = BE(ID[0..8))` (20_memory.md R64). -/
def identHigh (id : Ident) : BitVec 64 := BitVec.ofNat 64 (beNat (id.toList.take 8))

/-- The second 64-bit half, `LO = BE(ID[8..16))` (20_memory.md R64). -/
def identLow (id : Ident) : BitVec 64 := BitVec.ofNat 64 (beNat (id.toList.drop 8))

/-! ### The enumerations as bits -/

/-- The mode bit: RANDOM is 0, TIME_SORTED is 1 (R107). -/
def modeBit : Mode → BitVec 1
  | .random => 0
  | .timeSorted => 1

/-- The mode that a mode bit stands for (R107). -/
def modeOfBit (m : BitVec 1) : Mode := if m = 1 then .timeSorted else .random

/-- The tag length `t` in bytes (R101). -/
def tagBytes : TagLen → Nat
  | .one => 1
  | .two => 2

/-- The footer flag of a tag length: `FLAG = t - 1` (R108). -/
def footerFlag : TagLen → Bool
  | .one => false
  | .two => true

/-- The tag length of a footer flag: `t = FLAG + 1` (R108). -/
def tagLenOfFlag (flag : Bool) : TagLen := if flag then .two else .one

/-! ### Offsets (R101) -/

/-- `TS_END(mode)`: 6 in mode TIME_SORTED, else 0. -/
def tsEnd : Mode → Nat
  | .random => 0
  | .timeSorted => 6

/-- `OFF_FP(t) = 14 - t`. -/
def offFp (t : TagLen) : Nat := 14 - tagBytes t

/-- `OFF_INFO(t) = 15 - t`. -/
def offInfo (t : TagLen) : Nat := 15 - tagBytes t

/-- `OFF_TAG(t) = 16 - t`. -/
def offTag (t : TagLen) : Nat := 16 - tagBytes t

/-- The number of random bytes: `14 - t - TS_END(mode)` (R102). -/
def randomCount (mode : Mode) (t : TagLen) : Nat := 14 - tagBytes t - tsEnd mode

/-! ### The info byte (R106) -/

/-- `INFOBYTE(idx, ver, m)`. -/
def infoByte (idx : BitVec 4) (ver : BitVec 3) (mode : Mode) : Byte := idx ++ ver ++ modeBit mode

/-- `idx = b[7:4]`. -/
def infoIndex (b : Byte) : BitVec 4 := b.extractLsb' 4 4

/-- `ver = b[3:1]`. -/
def infoVersion (b : Byte) : BitVec 3 := b.extractLsb' 1 3

/-- `m = b[0]`. -/
def infoMode (b : Byte) : Mode := modeOfBit (b.extractLsb' 0 1)

/-! ### Packing -/

/-- The timestamp field: `toBE(6, T)` in mode TIME_SORTED, nothing in mode RANDOM (R104). -/
def timestampField (mode : Mode) (time : BitVec 48) : List Byte :=
  match mode with
  | .random => []
  | .timeSorted => toBE 6 time.toNat

/-- `PREFIX(mode, t, T, RB, fp, idx)` (R110): timestamp, randomness, fingerprint, info byte, in this order. With
`RB` of `randomCount mode t` bytes these are the `16 - t` bytes before the tag. -/
def prefixBytes (mode : Mode) (time : BitVec 48) (rb : List Byte) (fp : Byte) (idx : BitVec 4) : List Byte :=
  timestampField mode time ++ rb ++ [fp, infoByte idx Config.version mode]

/-- A byte whose bit 0 is replaced by the footer flag. -/
def withFlag (b : Byte) (flag : Bool) : Byte := (b &&& 0xFE) ||| (if flag then 1 else 0)

/-- `FINISH(P, t, D)` (R111): the prefix, then the first `t` bytes of the digest, with the footer flag in bit 0 of byte
15. -/
def finish (p : List Byte) (t : TagLen) (d : List Byte) : Ident :=
  Vector.ofFn fun i : Fin 16 =>
    let b := (p ++ d.take (tagBytes t)).getD i.val 0
    if i.val = 15 then withFlag b (footerFlag t) else b

/-! ### Unpacking (R112) -/

/-- What `UNPACK` returns. -/
structure Unpacked where
  /-- The footer flag. -/
  flag : Bool
  /-- The tag length that the flag says. -/
  t : TagLen
  /-- The `t` tag bytes. -/
  tag : List Byte
  /-- The secret index. -/
  idx : BitVec 4
  /-- The protocol version. -/
  ver : BitVec 3
  /-- The mode. -/
  mode : Mode
  /-- The type fingerprint. -/
  fp : Byte
  /-- The timestamp; 0 in mode RANDOM. -/
  ts : BitVec 48
  /-- The `16 - t` bytes before the tag. -/
  signed : List Byte
  deriving DecidableEq, Repr

/-- Byte `n` of the buffer. -/
def bufByte (buf : Ident) (n : Nat) : Byte := buf.toList.getD n 0

/-- The footer flag: `BUF[15][0]` (R108). -/
def bufFlag (buf : Ident) : Bool := (bufByte buf 15).getLsbD 0

/-- The tag length the buffer's footer flag says. -/
def bufTagLen (buf : Ident) : TagLen := tagLenOfFlag (bufFlag buf)

/-- The info byte of a buffer read with tag length `t`. -/
def bufInfo (buf : Ident) (t : TagLen) : Byte := bufByte buf (offInfo t)

/-- The bytes before the tag, `BUF[0 .. 16 - t)`: what the tag signs (R101, 41_digest.md R122). -/
def signedBytes (buf : Ident) (t : TagLen) : List Byte := buf.toList.take (offTag t)

/-- `BE48(BUF[0..6))`. -/
def bufTimestamp (buf : Ident) : BitVec 48 := BitVec.ofNat 48 (beNat (buf.toList.take 6))

/-- `UNPACK(BUF)`: total, and no field's value is refused (R112). -/
def unpack (buf : Ident) : Unpacked :=
  let t := bufTagLen buf
  let info := bufInfo buf t
  { flag := bufFlag buf
    t := t
    tag := buf.toList.drop (offTag t)
    idx := infoIndex info
    ver := infoVersion info
    mode := infoMode info
    fp := bufByte buf (offFp t)
    ts := match infoMode info with
      | .timeSorted => bufTimestamp buf
      | .random => 0
    signed := signedBytes buf t }

end Sys2Proof.Machine
end

