-- ==== Sys2Proof/Machine/Digest.lean ====
section
/-! DEFINITION. The Keyed Digest Engine, 41_digest.md: `KD`, `TAG`, `TAGOK`, each over a digest function given as an
argument (`Config.digest` in the machine, `digestTest` in the tests). The engine keeps no state (10_state.md R37). -/

namespace Sys2Proof.Machine

/-- `KD(S, P) = DIGEST(S ‖ P)`: the secret first, nothing between (R120). -/
def keyedDigest (digest : List Byte → List Byte) (secret signed : List Byte) : List Byte := digest (secret ++ signed)

/-- `TAG(S, P, t) = KD(S, P)[0..t)` (R123). -/
def tagOf (digest : List Byte → List Byte) (secret signed : List Byte) (t : TagLen) : List Byte :=
  (keyedDigest digest secret signed).take (tagBytes t)

/-- `TAGMASK(1)`, and the second byte of `TAGMASK(2)`: the footer flag is masked out (40_codec.md R109). -/
def tagMask : Byte := 0xFE

/-- `TAGOK(BUF, t, S)`: the masked comparison of the stored tag with a recomputed one (R124). -/
def tagOk (digest : List Byte → List Byte) (buf : Ident) (t : TagLen) (secret : List Byte) : Bool :=
  let d := keyedDigest digest secret (signedBytes buf t)
  match t with
  | .one => (bufByte buf 15 &&& tagMask) == (d.getD 0 0 &&& tagMask)
  | .two => bufByte buf 14 == d.getD 0 0 && (bufByte buf 15 &&& tagMask) == (d.getD 1 0 &&& tagMask)

/-- `DIGEST_TEST` (R125): the sum and the exclusive-or of the bytes. Only the test vectors of 95_test_vectors.md use
it. -/
def digestTest (m : List Byte) : List Byte := [m.foldl (· + ·) 0, m.foldl (· ^^^ ·) 0]

end Sys2Proof.Machine
end

