-- ==== Sys2Proof/Machine/State.lean ====
section
/-! DEFINITION. The state of the block: every state element of 10_state.md R22 to R34, under the spec's own name, and
the pending inputs from outside the block (the host's command port and reset input, and the three input ports of
60_exceptions.md R212 to R214), which are the model's own fields. State.reset is 10_state.md R50. -/

namespace Sys2Proof.Machine

/-- A byte array of the block (`KR_DATA[i]`, `KEYBUF`, `LBL`) as far as it has been written: the byte at an index at or
beyond the list's end has not been written since reset and reads as 0 (R50 allows it; log entry 11). -/
abbrev ByteBuf := List Byte

/-- `STATE` (R22): three legal values; the value 3 is never held. -/
inductive LifeCycle where
  /-- 0: after reset, the keyring is being loaded. -/
  | config
  /-- 1: the keyring was validated and sealed. -/
  | ready
  /-- 2: a configuration error happened; left only by reset. -/
  | cfgErr
  deriving DecidableEq, Repr

/-- The error codes of 60_exceptions.md R190, by name; `ErrCode.code` gives the numbers. -/
inductive ErrCode where
  | illegal
  | state
  | krCount
  | krIndex
  | krDup
  | keyLen
  | sel
  | nullLabel
  | labelLen
  | mode
  | tagLen
  | nullId
  deriving DecidableEq, Repr

/-- One keyring slot (R23). -/
structure KeySlot where
  /-- `KR_VALID[i]`: the index is configured. -/
  valid : Bool
  /-- `KR_LEN[i]`: 0 to `SECRET_MAX`. -/
  len : Nat
  /-- `KR_DATA[i]`, of which the first `len` bytes are the secret. -/
  data : ByteBuf
  deriving DecidableEq, Repr

/-- The keyring and the selector configuration (R23, R24, R26): what SEAL makes immutable (R51). -/
structure Keyring where
  /-- The 16 slots. -/
  slots : Vector KeySlot 16
  /-- `KR_COUNT`: 0 to 16. -/
  count : Nat
  /-- `SEL_MODE`. -/
  selMode : SelMode
  /-- `SEL_FIX`. -/
  selFix : BitVec 4
  deriving DecidableEq, Repr

/-- The key staging buffer (R25). -/
structure KeyStaging where
  /-- `KEYBUF`. -/
  bytes : ByteBuf
  /-- `KEYBUF_LEN`: 0 to `SECRET_MAX`. -/
  len : Nat
  deriving DecidableEq, Repr

/-- The label buffer (R27). -/
structure LabelBuffer where
  /-- `LBL_PRESENT`. -/
  present : Bool
  /-- `LBL_LEN`: 0 to 256; 256 says that 256 bytes or more were supplied. -/
  len : Nat
  /-- `LBL`: 255 bytes. -/
  bytes : ByteBuf
  deriving DecidableEq, Repr

/-- The identifier input buffer (R28). -/
structure IdBuffer where
  /-- `ID_IN`: 16 bytes. -/
  bytes : Ident
  /-- `ID_CNT`: 0 to 17; the operand is present exactly at 16. -/
  cnt : Nat
  deriving DecidableEq, Repr

/-- One valid entry of the fingerprint cache (R29). -/
structure CacheEntry where
  /-- `CLBL[k][0..CLEN[k])`; its length is `CLEN[k]`. -/
  label : List Byte
  /-- `CFP[k]`. -/
  fp : Byte
  deriving DecidableEq, Repr

/-- The decode result (R33), written as a whole by a successful DECODE. -/
structure DecodeResult where
  /-- `R_VALIDTAG`. -/
  validTag : Bool
  /-- `R_TYPEMATCH`. -/
  typeMatch : Bool
  /-- `R_TS`. -/
  ts : BitVec 48
  /-- `R_SECIDX`. -/
  secIdx : BitVec 4
  /-- `R_MODE`. -/
  mode : Mode
  /-- `R_VER`. -/
  ver : BitVec 3
  /-- `R_FLAG`: the footer flag that was read. -/
  flag : Bool
  deriving DecidableEq, Repr

/-- What the host can do to the block that changes its state (70_reset_and_hazards.md R235). -/
inductive HostInput where
  /-- The host writes a command word to the command port. -/
  | command (w : Word)
  /-- The host asserts and releases the reset input. -/
  | reset
  deriving DecidableEq, Repr

/-- The MODEL's own fields: what the outside world delivers next, oldest first. A port's list gives the values it
delivers; when the list is empty the value is the free constant of Config.lean at the port's counter, so the state
fixes only as much of the outside as it lists (log entries 1, 7, 8, 9). -/
structure Inputs where
  /-- The host's command writes and resets that wait for the block (20_memory.md R66). -/
  host : List HostInput
  /-- Samples of the time port (R212). -/
  time : List (BitVec 64)
  /-- How many time samples have been taken. -/
  timeTaken : Nat
  /-- Bytes of the random port (R213). -/
  random : List Byte
  /-- How many random bytes have been taken. -/
  randomTaken : Nat
  /-- Values of the selector port (R214). -/
  selector : List (Fin 16)
  /-- How many selector values have been taken. -/
  selectorTaken : Nat
  deriving DecidableEq, Repr

/-- The whole machine. -/
structure State where
  /-- `STATE` (R22). -/
  lifeCycle : LifeCycle
  /-- `KR_VALID`, `KR_LEN`, `KR_DATA`, `KR_COUNT`, `SEL_MODE`, `SEL_FIX` (R23, R24, R26). -/
  keyring : Keyring
  /-- `KEYBUF`, `KEYBUF_LEN` (R25). -/
  staging : KeyStaging
  /-- `LBL_PRESENT`, `LBL_LEN`, `LBL` (R27). -/
  label : LabelBuffer
  /-- `ID_IN`, `ID_CNT` (R28). -/
  ident : IdBuffer
  /-- The fingerprint cache (R29): entry `k` is valid (`CV[k] = 1`) exactly when the list has an entry at `k`, since the
  fill takes the least free index and nothing is ever removed (log entry 13). -/
  cache : List CacheEntry
  /-- `ID_OUT` (R31). -/
  idOut : Ident
  /-- `FP_OUT` (R32). -/
  fpOut : Byte
  /-- `R_VALIDTAG` to `R_FLAG` (R33). -/
  result : DecodeResult
  /-- `ERR` (R34). -/
  err : BitVec 8
  /-- `FAULTS` (R34). -/
  faults : BitVec 32
  /-- The model's own: what the outside world delivers next. -/
  inputs : Inputs
  deriving DecidableEq, Repr

/-- Why a step can stop. -/
inductive Fault where
  /-- Raised by GENERATE under the random policy when no index is configured: `draw_sel(S)` has no meaning for the empty
  set (42_keyring.md R134). SAFE: the spec gives no effect there, and no state that satisfies the invariant of R24
  raises it (log entry 10). -/
  | emptySelectorSet
  deriving DecidableEq, Repr

/-- Why an instruction can have no meaning. -/
inductive Refusal where
  /-- An arm of `exec` without a meaning. SAFE. No arm of this model raises it: all fourteen commands have their
  meaning. -/
  | notModelled (mnemonic : String)
  deriving DecidableEq, Repr

/-- A slot that was never loaded. -/
def KeySlot.empty : KeySlot := ⟨false, 0, []⟩

/-- No pending input. -/
def Inputs.none : Inputs := ⟨[], [], 0, [], 0, [], 0⟩

/-- The machine right after reset (R50, R220). -/
def State.reset : State where
  lifeCycle := .config
  keyring := ⟨Vector.replicate 16 KeySlot.empty, 0, .random, 0⟩
  staging := ⟨[], 0⟩
  label := ⟨false, 0, []⟩
  ident := ⟨Vector.replicate 16 0, 0⟩
  cache := []
  idOut := Vector.replicate 16 0
  fpOut := 0
  result := ⟨false, false, 0, 0, .random, 0, false⟩
  err := 0
  faults := 0
  inputs := Inputs.none

end Sys2Proof.Machine
end

