-- ==== Sys2Proof/Machine/Operands.lean ====
section
/-! DEFINITION. Every operand form: the operand fields of the command word (30_encoding.md R82) read as the values the
commands accept, and the two operand buffers read as the label and the identifier operand (10_state.md R27, R28). -/

namespace Sys2Proof.Machine

/-- The keyring index of KEYLOAD: `none` outside 0 to 15 (R86, R137: E_KR_INDEX). -/
def keyIndex (idx : Int) : Option (Fin 16) :=
  if h : 0 ≤ idx ∧ idx ≤ 15 then some ⟨idx.toNat, by omega⟩ else none

/-- The mode operand `MD`: 0 RANDOM, 1 TIME_SORTED; 2 and 3 say that no mode was supplied (R82: E_MODE). -/
def modeOperand (md : BitVec 2) : Option Mode :=
  match md with
  | 0#2 => some .random
  | 1#2 => some .timeSorted
  | _ => none

/-- The tag length operand `TL`: only 1 and 2 are legal (R82: E_TAGLEN). -/
def tagLenOperand (tl : Nat) : Option TagLen :=
  match tl with
  | 1 => some .one
  | 2 => some .two
  | _ => none

/-- The slot number of a 4-bit index (`FIX`, `SEL_FIX`, a decoded secret index). -/
def slotOf (idx : BitVec 4) : Fin 16 := idx.toFin

/-- The 4-bit index of a slot number. -/
def indexOf (i : Fin 16) : BitVec 4 := BitVec.ofFin i

/-! ### Byte arrays (R10, R50) -/

/-- The first `n` bytes of an array whose unwritten bytes are 0. -/
def slice (buf : ByteBuf) (n : Nat) : List Byte := buf.take n ++ List.replicate (n - buf.length) 0

/-- The array with byte `n` written. -/
def putByte (buf : ByteBuf) (n : Nat) (b : Byte) : ByteBuf := slice buf n ++ b :: buf.drop (n + 1)

/-- The array with its first bytes overwritten by `src`. -/
def putBytes (buf : ByteBuf) (src : List Byte) : ByteBuf := src ++ buf.drop src.length

/-! ### The operand buffers -/

/-- `CHECK_LABEL()` (43_fingerprint.md R154): the label operand, or the error that its absence or its length raises. -/
def labelOperand (l : LabelBuffer) : Except ErrCode (List Byte) :=
  if l.present = false then .error .nullLabel
  else if l.len > Config.labelMax then .error .labelLen
  else .ok (slice l.bytes l.len)

/-- The identifier operand (R28): present exactly when `ID_CNT = 16`. -/
def identOperand (b : IdBuffer) : Option Ident := if b.cnt = 16 then some b.bytes else none

end Sys2Proof.Machine
end

