-- ==== Sys2Proof/Machine/Ops.lean ====
section
/-! DEFINITION. The named operations the commands share: error entry and completion (60_exceptions.md R200, R203), the
input ports (R212 to R214), the keyring, the operand buffers and the fingerprint cache. -/

namespace Sys2Proof.Machine

/-! ### Error entry: this block's exceptions (R190, R200) -/

/-- The numeric error codes of R190. -/
def ErrCode.code : ErrCode → Nat
  | .illegal => 1
  | .state => 2
  | .krCount => 3
  | .krIndex => 4
  | .krDup => 5
  | .keyLen => 6
  | .sel => 7
  | .nullLabel => 8
  | .labelLen => 9
  | .mode => 10
  | .tagLen => 11
  | .nullId => 12

/-- The configuration errors, codes 3 to 7 (R190, R201). -/
def ErrCode.isConfigError : ErrCode → Bool
  | .krCount | .krIndex | .krDup | .keyLen | .sel => true
  | .illegal | .state | .nullLabel | .labelLen | .mode | .tagLen | .nullId => false

/-- The bit of `FAULTS` that an error sets: `1 << n` (R200). -/
def ErrCode.faultBit (e : ErrCode) : BitVec 32 := 1#32 <<< e.code

/-- `raise E_n` (R200): `ERR`, the sticky bit of `FAULTS` and, for a configuration error, `STATE`; nothing else. There
is no handler, no vector and no saved context. -/
def State.raise (s : State) (e : ErrCode) : State :=
  { s with
    err := BitVec.ofNat 8 e.code
    faults := s.faults ||| e.faultBit
    lifeCycle := if e.isConfigError then .cfgErr else s.lifeCycle }

/-- `ERR <- 0`: a command that completes without error (R34). It is all there is of a return from an error: the next
command overwrites `ERR`, and `FAULTS` keeps the record (R203). -/
def State.done (s : State) : State := { s with err := 0 }

/-! ### The input ports (R212 to R214) -/

/-- `sample_time()`: the 64 bits on the time port (R212). -/
def Inputs.timeSample (p : Inputs) : BitVec 64 := p.time.headD (Config.timeSample p.timeTaken)

/-- `n` times `draw_rnd()`, in order (R213). -/
def Inputs.randomBytes (p : Inputs) (n : Nat) : List Byte :=
  (List.range n).map fun k => p.random.getD k (Config.randomByte (p.randomTaken + k))

/-- What the selector port shows (R214). -/
def Inputs.selectorValue (p : Inputs) : Fin 16 := p.selector.headD (Config.selectorChoice p.selectorTaken)

/-- The inputs after one read of the time port. -/
def Inputs.tookTime (p : Inputs) : Inputs := { p with time := p.time.tail, timeTaken := p.timeTaken + 1 }

/-- The inputs after `n` reads of the random port. -/
def Inputs.tookRandom (p : Inputs) (n : Nat) : Inputs :=
  { p with random := p.random.drop n, randomTaken := p.randomTaken + n }

/-- The inputs after one read of the selector port. -/
def Inputs.tookSelector (p : Inputs) : Inputs :=
  { p with selector := p.selector.tail, selectorTaken := p.selectorTaken + 1 }

/-! ### Keyring and selector (42_keyring.md) -/

/-- `SECRET(i) = KR_DATA[i][0..KR_LEN[i])` (R133). -/
def Keyring.secret (k : Keyring) (i : Fin 16) : List Byte := slice (k.slots.get i).data (k.slots.get i).len

/-- `KR_VALID[i]`. -/
def Keyring.valid (k : Keyring) (i : Fin 16) : Bool := (k.slots.get i).valid

/-- `LOOKUP(idx)`: the secret, or `none` for `unknown` (R133). -/
def Keyring.lookup (k : Keyring) (idx : BitVec 4) : Option (List Byte) :=
  if k.valid (slotOf idx) then some (k.secret (slotOf idx)) else none

/-- The writes of KEYLOAD to slot `i` and to `KR_COUNT` (R137). -/
def Keyring.load (k : Keyring) (i : Fin 16) (secret : List Byte) : Keyring :=
  { k with
    slots := k.slots.set i.val
      { valid := true, len := secret.length, data := putBytes (k.slots.get i).data secret } i.isLt
    count := k.count + 1 }

/-- The writes of SEAL to the selector configuration: `FIX` is kept only when `SM = 1` (R139). -/
def Keyring.setSelector (k : Keyring) (sm : SelMode) (fix : BitVec 4) : Keyring :=
  { k with
    selMode := sm
    selFix := match sm with
      | .fixed => fix
      | .random => 0 }

/-- `draw_sel(S)` for the set of indices that `valid` marks: the index the port names if it is in `S`, else the next one
in `S` going upwards and round (R214: it must never leave `S`; log entry 9). `none` exactly when `S` is empty. -/
def drawSel (valid : Fin 16 → Bool) (port : Fin 16) : Option (Fin 16) :=
  ((List.finRange 16).map fun k => port + k).find? valid

/-- `SELECT()` (R134). -/
def Keyring.select (k : Keyring) (port : Fin 16) : Option (Fin 16) :=
  match k.selMode with
  | .fixed => some (slotOf k.selFix)
  | .random => drawSel k.valid port

/-- The read of the selector port that `SELECT()` makes: only under the random policy (R214). -/
def Keyring.tookSelection (k : Keyring) (p : Inputs) : Inputs :=
  match k.selMode with
  | .fixed => p
  | .random => p.tookSelector

/-! ### Operand buffers -/

/-- `KEYBUF_LEN <- 0` (R135, R137, R139). The bytes stay, above `KEYBUF_LEN`. -/
def KeyStaging.clear (k : KeyStaging) : KeyStaging := { k with len := 0 }

/-- One byte appended to the staging buffer (R136). -/
def KeyStaging.put (k : KeyStaging) (b : Byte) : KeyStaging := ⟨putByte k.bytes k.len b, k.len + 1⟩

/-- The staged secret, `KEYBUF[0 .. KEYBUF_LEN)`. -/
def KeyStaging.secret (k : KeyStaging) : List Byte := slice k.bytes k.len

/-- A new, empty, present label (R160). -/
def LabelBuffer.start (l : LabelBuffer) : LabelBuffer := { l with present := true, len := 0 }

/-- The label withdrawn (R162). -/
def LabelBuffer.drop (l : LabelBuffer) : LabelBuffer := { l with present := false, len := 0 }

/-- The length that LBLPUT appends at: an absent label starts a new one (R161). -/
def LabelBuffer.putAt (l : LabelBuffer) : Nat := if l.present then l.len else 0

/-- One byte appended to the label, or the label marked over-length (R161). -/
def LabelBuffer.put (l : LabelBuffer) (b : Byte) : LabelBuffer :=
  if l.putAt < Config.labelMax then ⟨true, l.putAt + 1, putByte l.bytes l.putAt b⟩
  else { l with present := true, len := Config.labelMax + 1 }

/-- The identifier buffer emptied (R171). -/
def IdBuffer.clear (d : IdBuffer) : IdBuffer := { d with cnt := 0 }

/-- One byte appended to the identifier buffer, or the operand marked malformed (R172). -/
def IdBuffer.put (d : IdBuffer) (b : Byte) : IdBuffer :=
  if d.cnt < 16 then ⟨d.bytes.setIfInBounds d.cnt b, d.cnt + 1⟩ else { d with cnt := 17 }

/-- The identifier buffer filled with a whole identifier (R173). -/
def IdBuffer.fill (_d : IdBuffer) (id : Ident) : IdBuffer := ⟨id, 16⟩

/-! ### The fingerprint cache (43_fingerprint.md R155 to R157) -/

/-- `HIT(L)`: the entry whose whole label equals `L` (R155). -/
def cacheHit (cache : List CacheEntry) (label : List Byte) : Option CacheEntry :=
  cache.find? fun e => e.label == label

/-- The value of `FP(L)`: the memoized fingerprint, or `CRC8(L)` (R156). -/
def fpValue (cache : List CacheEntry) (label : List Byte) : Byte :=
  match cacheHit cache label with
  | some e => e.fp
  | none => crc8 label

/-- The cache after `FP(L)`: a miss fills the least free entry while there is one; nothing is ever replaced
(R156, R157). -/
def fpFill (entries : Nat) (cache : List CacheEntry) (label : List Byte) : List CacheEntry :=
  match cacheHit cache label with
  | some _ => cache
  | none => if cache.length < entries then cache ++ [⟨label, crc8 label⟩] else cache

/-! ### Composing an identifier (44_facade.md R175 steps 7 to 9) -/

/-- The identifier made of the given fields and signed with the given secret. -/
def composeIdent (digest : List Byte → List Byte) (secret : List Byte) (mode : Mode) (t : TagLen) (time : BitVec 48)
    (rb : List Byte) (fp : Byte) (idx : BitVec 4) : Ident :=
  finish (prefixBytes mode time rb fp idx) t (keyedDigest digest secret (prefixBytes mode time rb fp idx))

/-- The timestamp of GENERATE: the time sample modulo 2^48 in mode TIME_SORTED, else 0 and unused (R175 step 4). -/
def Inputs.timestamp (p : Inputs) (mode : Mode) : BitVec 48 :=
  match mode with
  | .timeSorted => p.timeSample.setWidth 48
  | .random => 0

/-- The read of the time port that GENERATE makes: only in mode TIME_SORTED (R212). -/
def Inputs.tookTimestamp (p : Inputs) (mode : Mode) : Inputs :=
  match mode with
  | .timeSorted => p.tookTime
  | .random => p

/-- Steps 3 to 10 of GENERATE (R175), once every check has passed. -/
def State.generate (s : State) (label : List Byte) (mode : Mode) (t : TagLen) : Host.Outcome State Fault Refusal :=
  match s.keyring.select s.inputs.selectorValue with
  | none => .fault .emptySelectorSet
  | some i =>
    .next
      { s with
        idOut := composeIdent Config.digest (s.keyring.secret i) mode t (s.inputs.timestamp mode)
          (s.inputs.randomBytes (randomCount mode t)) (fpValue s.cache label) (indexOf i)
        cache := fpFill Config.cacheEntries s.cache label
        inputs := ((s.keyring.tookSelection s.inputs).tookTimestamp mode).tookRandom (randomCount mode t)
        err := 0 }

end Sys2Proof.Machine
end

