-- ==== Sys2Proof/Machine/Flags.lean ====
section
/-! DEFINITION. The flag-like bits of 10_state.md R35 that are computed: `OK`, `R_TYPEMATCH`, `R_VALIDTAG`, and the whole
decode result of 44_facade.md R177. -/

namespace Sys2Proof.Machine

/-- `OK`, not stored: 1 exactly when `ERR = 0` (R35). -/
def State.ok (s : State) : Bool := s.err == 0

/-- `R_TYPEMATCH` (R177 step 4): the stored fingerprint against that of the expected label. -/
def typeMatches (u : Unpacked) (fp : Byte) : Bool := u.fp == fp

/-- `R_VALIDTAG` (R177 step 5, R178): the version is recognised, the secret is known and the tag agrees. -/
def validTag (digest : List Byte → List Byte) (k : Keyring) (buf : Ident) : Bool :=
  match k.lookup (unpack buf).idx with
  | none => false
  | some secret => (unpack buf).ver == Config.version && tagOk digest buf (unpack buf).t secret

/-- The seven result fields of a successful DECODE (R177 steps 3 to 6). -/
def decodeResult (digest : List Byte → List Byte) (k : Keyring) (fp : Byte) (buf : Ident) : DecodeResult :=
  { validTag := validTag digest k buf
    typeMatch := typeMatches (unpack buf) fp
    ts := (unpack buf).ts
    secIdx := (unpack buf).idx
    mode := (unpack buf).mode
    ver := (unpack buf).ver
    flag := (unpack buf).flag }

end Sys2Proof.Machine
end

