-- ==== Sys2Proof/Machine/Facade.lean ====
section
/-! DEFINITION. The meanings of the commands of 44_facade.md: NOP, IDRST, IDPUT, IDMOV, GENERATE, DECODE. -/

namespace Sys2Proof.Machine

/-- NOP (R170): legal in every life-cycle state. -/
def execNop (s : State) : Host.Outcome State Fault Refusal := .next s.done

/-- IDRST (R171). -/
def execIdrst (s : State) : Host.Outcome State Fault Refusal :=
  if s.lifeCycle = .cfgErr then .next (s.raise .state)
  else .next { s with ident := s.ident.clear, err := 0 }

/-- IDPUT imm8 (R172). -/
def execIdput (imm8 : Byte) (s : State) : Host.Outcome State Fault Refusal :=
  if s.lifeCycle = .cfgErr then .next (s.raise .state)
  else .next { s with ident := s.ident.put imm8, err := 0 }

/-- IDMOV (R173). -/
def execIdmov (s : State) : Host.Outcome State Fault Refusal :=
  if s.lifeCycle = .cfgErr then .next (s.raise .state)
  else .next { s with ident := s.ident.fill s.idOut, err := 0 }

/-- GENERATE MD, TL (R175): every check comes before any port is read. -/
def execGenerate (md : BitVec 2) (tl : Nat) (s : State) : Host.Outcome State Fault Refusal :=
  if s.lifeCycle ≠ .ready then .next (s.raise .state)
  else
    match labelOperand s.label with
    | .error e => .next (s.raise e)
    | .ok label =>
      match modeOperand md with
      | none => .next (s.raise .mode)
      | some mode =>
        match tagLenOperand tl with
        | none => .next (s.raise .tagLen)
        | some t => s.generate label mode t

/-- DECODE (R177): the identifier operand is checked before the label operand. -/
def execDecode (s : State) : Host.Outcome State Fault Refusal :=
  if s.lifeCycle ≠ .ready then .next (s.raise .state)
  else
    match identOperand s.ident with
    | none => .next (s.raise .nullId)
    | some buf =>
      match labelOperand s.label with
      | .error e => .next (s.raise e)
      | .ok label =>
        .next
          { s with
            result := decodeResult Config.digest s.keyring (fpValue s.cache label) buf
            cache := fpFill Config.cacheEntries s.cache label
            err := 0 }

end Sys2Proof.Machine
end

