-- ==== Sys2Proof/Machine/Fingerprint.lean ====
section
/-! DEFINITION. The meanings of the commands of 43_fingerprint.md: LBLRST, LBLPUT, LBLNUL, FPRINT. -/

namespace Sys2Proof.Machine

/-- LBLRST (R160). -/
def execLblrst (s : State) : Host.Outcome State Fault Refusal :=
  if s.lifeCycle = .cfgErr then .next (s.raise .state)
  else .next { s with label := s.label.start, err := 0 }

/-- LBLPUT imm8 (R161). -/
def execLblput (imm8 : Byte) (s : State) : Host.Outcome State Fault Refusal :=
  if s.lifeCycle = .cfgErr then .next (s.raise .state)
  else .next { s with label := s.label.put imm8, err := 0 }

/-- LBLNUL (R162). -/
def execLblnul (s : State) : Host.Outcome State Fault Refusal :=
  if s.lifeCycle = .cfgErr then .next (s.raise .state)
  else .next { s with label := s.label.drop, err := 0 }

/-- FPRINT (R163). -/
def execFprint (s : State) : Host.Outcome State Fault Refusal :=
  if s.lifeCycle = .cfgErr then .next (s.raise .state)
  else
    match labelOperand s.label with
    | .error e => .next (s.raise e)
    | .ok label =>
      .next
        { s with
          fpOut := fpValue s.cache label
          cache := fpFill Config.cacheEntries s.cache label
          err := 0 }

end Sys2Proof.Machine
end

