-- ==== Sys2Proof/Machine/Keyring.lean ====
section
/-! DEFINITION. The meanings of the commands of 42_keyring.md: KEYRST, KEYPUT, KEYLOAD, SEAL. -/

namespace Sys2Proof.Machine

/-- KEYRST (R135). -/
def execKeyrst (s : State) : Host.Outcome State Fault Refusal :=
  if s.lifeCycle ≠ .config then .next (s.raise .state)
  else .next { s with staging := s.staging.clear, err := 0 }

/-- KEYPUT imm8 (R136). -/
def execKeyput (imm8 : Byte) (s : State) : Host.Outcome State Fault Refusal :=
  if s.lifeCycle ≠ .config then .next (s.raise .state)
  else if s.staging.len = Config.secretMax then .next (s.raise .keyLen)
  else .next { s with staging := s.staging.put imm8, err := 0 }

/-- KEYLOAD idx8 (R137). -/
def execKeyload (idx : Int) (s : State) : Host.Outcome State Fault Refusal :=
  if s.lifeCycle ≠ .config then .next (s.raise .state)
  else if s.keyring.count = 16 then .next (s.raise .krCount)
  else
    match keyIndex idx with
    | none => .next (s.raise .krIndex)
    | some i =>
      if s.keyring.valid i then .next (s.raise .krDup)
      else .next { s with keyring := s.keyring.load i s.staging.secret, staging := s.staging.clear, err := 0 }

/-- SEAL SM, FIX (R139). -/
def execSeal (sm : SelMode) (fix : BitVec 4) (s : State) : Host.Outcome State Fault Refusal :=
  if s.lifeCycle ≠ .config then .next (s.raise .state)
  else if s.keyring.count = 0 then .next (s.raise .krCount)
  else if sm = .fixed ∧ s.keyring.valid (slotOf fix) = false then .next (s.raise .sel)
  else
    .next
      { s with
        keyring := s.keyring.setSelector sm fix
        staging := s.staging.clear
        lifeCycle := .ready
        err := 0 }

end Sys2Proof.Machine
end

