-- ==== Sys2Proof/Machine/Dispatch.lean ====
section
/-! DEFINITION. One arm per command (30_encoding.md R83): each calls the command's meaning. -/

namespace Sys2Proof.Machine

def exec (i : Instr) (s : State) : Host.Outcome State Fault Refusal :=
  match i with
  | .nop => Sys2Proof.Machine.execNop s
  | .keyrst => Sys2Proof.Machine.execKeyrst s
  | .keyput imm8 => Sys2Proof.Machine.execKeyput imm8 s
  | .keyload idx => Sys2Proof.Machine.execKeyload idx s
  | .sealKeyring sm fix => Sys2Proof.Machine.execSeal sm fix s
  | .lblrst => Sys2Proof.Machine.execLblrst s
  | .lblput imm8 => Sys2Proof.Machine.execLblput imm8 s
  | .lblnul => Sys2Proof.Machine.execLblnul s
  | .idrst => Sys2Proof.Machine.execIdrst s
  | .idput imm8 => Sys2Proof.Machine.execIdput imm8 s
  | .idmov => Sys2Proof.Machine.execIdmov s
  | .fprint => Sys2Proof.Machine.execFprint s
  | .generate md tl => Sys2Proof.Machine.execGenerate md tl s
  | .decode => Sys2Proof.Machine.execDecode s

end Sys2Proof.Machine
end

