-- ==== Sys2Proof/Machine/Host.lean ====
section
/-! DEFINITION. What the host's inputs do: the reset input (70_reset_and_hazards.md R220) and a word on the command port
(20_memory.md R66, 30_encoding.md R85). -/

namespace Sys2Proof.Machine

/-- Reset (R220): every state element takes the value of R50. What the outside delivers next is no state element of the
block and stays. -/
def State.applyReset (s : State) : State := { State.reset with inputs := s.inputs }

/-- The block after it has taken the oldest pending input of the host. -/
def State.withHost (s : State) (rest : List HostInput) : State := { s with inputs := { s.inputs with host := rest } }

/-- One command word, executed to completion (R66): the command it decodes to, or E_ILLEGAL, in every life-cycle state
and before any other check (R85, R198). -/
def execWord (w : Word) (s : State) : Host.Outcome State Fault Refusal :=
  match decodeWord w with
  | .ok i => exec i s
  | .error _ => .next (s.raise .illegal)

/-- One input of the host. -/
def takeInput (x : HostInput) (s : State) : Host.Outcome State Fault Refusal :=
  match x with
  | .command w => execWord w s
  | .reset => .next s.applyReset

/-- A sequence of commands, each executed to completion before the next (R66, R69). -/
def execAll : List Instr → State → Host.Outcome State Fault Refusal
  | [], s => .next s
  | i :: is, s =>
    match exec i s with
    | .next t => execAll is t
    | .fault r => .fault r
    | .refused r => .refused r

/-- A sequence of command words, each executed to completion before the next (R66, R69). -/
def execWords : List Word → State → Host.Outcome State Fault Refusal
  | [], s => .next s
  | w :: ws, s =>
    match execWord w s with
    | .next t => execWords ws t
    | .fault r => .fault r
    | .refused r => .refused r

end Sys2Proof.Machine
end

