-- ==== Sys2Proof/Machine/Step.lean ====
section
/-! DEFINITION. One step: the block takes the oldest pending input of the host. There is no program counter and no
instruction memory (10_state.md R21): the words come from the host, one at a time, in the order it wrote them
(20_memory.md R66). -/

namespace Sys2Proof.Machine

/-- One step. With no pending input the block is idle and holds its state (R218, R234). -/
def step (s : State) : Host.Outcome State Fault Refusal :=
  match s.inputs.host with
  | [] => .next s
  | x :: rest => takeInput x (s.withHost rest)

/-- The state in which the host's next input is this command word (log entry 1). -/
def State.withFetchWord (s : State) (nbits w : Nat) : State :=
  s.withHost (.command (tableWord nbits w) :: s.inputs.host)

end Sys2Proof.Machine
end

