-- ==== Sys2Proof/Machine/Assembly.lean ====
section
/-! DEFINITION. The assembler's view of the commands, 30_encoding.md R88 and R89: how a command is written, and what the
three pseudo-instructions expand to. The block itself sees command words only. -/

namespace Sys2Proof.Machine

/-- The mnemonic of a command, as spec/opcode_table.json spells it. -/
def mnemonic : Instr → String
  | .nop => "NOP"
  | .keyrst => "KEYRST"
  | .keyput _ => "KEYPUT"
  | .keyload _ => "KEYLOAD"
  | .sealKeyring _ _ => "SEAL"
  | .lblrst => "LBLRST"
  | .lblput _ => "LBLPUT"
  | .lblnul => "LBLNUL"
  | .idrst => "IDRST"
  | .idput _ => "IDPUT"
  | .idmov => "IDMOV"
  | .fprint => "FPRINT"
  | .generate _ _ => "GENERATE"
  | .decode => "DECODE"

/-- How R88 writes the mode operand of GENERATE. -/
def modeText (md : BitVec 2) : String :=
  match md with
  | 0#2 => "RANDOM"
  | 1#2 => "TIME_SORTED"
  | 2#2 => "2"
  | _ => "NONE"

/-- One line of assembly (R88). `SEAL RANDOM` is written without its ignored `FIX`. -/
def assembly (i : Instr) : String :=
  match i with
  | .keyput b => mnemonic i ++ " " ++ toString b.toNat
  | .keyload idx => mnemonic i ++ " " ++ toString idx
  | .sealKeyring .random _ => mnemonic i ++ " RANDOM"
  | .sealKeyring .fixed fix => mnemonic i ++ " FIXED, " ++ toString fix.toNat
  | .lblput b => mnemonic i ++ " " ++ toString b.toNat
  | .idput b => mnemonic i ++ " " ++ toString b.toNat
  | .generate md tl => mnemonic i ++ " " ++ modeText md ++ ", " ++ toString tl
  | .nop | .keyrst | .lblrst | .lblnul | .idrst | .idmov | .fprint | .decode => mnemonic i

/-- The bytes of a string operand (R89: ASCII). -/
def asciiBytes (s : String) : List Byte := s.toList.map fun c => BitVec.ofNat 8 c.toNat

/-- `LABEL b0, b1, ...` (R89). -/
def pseudoLabel (label : List Byte) : List Instr := .lblrst :: label.map .lblput

/-- `KEY i, b0, b1, ...` (R89). -/
def pseudoKey (i : Int) (secret : List Byte) : List Instr := .keyrst :: (secret.map .keyput ++ [.keyload i])

/-- `IDENT b0, ..., b15` (R89). -/
def pseudoIdent (bytes : List Byte) : List Instr := .idrst :: bytes.map .idput

end Sys2Proof.Machine
end

