-- ==== Sys2Proof/Machine/Registers.lean ====
section
/-! DEFINITION. The result register file, 10_state.md R40 to R49: `RegRead` (20_memory.md R62), a function of the state
between commands. A read has no side effect (R71), so it is no step of the machine. -/

namespace Sys2Proof.Machine

/-- `STATE` as its 2-bit value (R22). -/
def LifeCycle.code : LifeCycle → BitVec 2
  | .config => 0
  | .ready => 1
  | .cfgErr => 2

/-- `SEL_MODE` as a bit (R26). -/
def selModeBit : SelMode → BitVec 1
  | .random => 0
  | .fixed => 1

/-- STATUS (R41). -/
def regStatus (s : State) : Word :=
  0#14 ++ BitVec.ofNat 5 s.ident.cnt ++ BitVec.ofNat 9 s.label.len ++ BitVec.ofBool s.label.present
    ++ BitVec.ofBool s.ok ++ s.lifeCycle.code

/-- ERR (R42). -/
def regErr (s : State) : Word := 0#24 ++ s.err

/-- FAULTS (R43). -/
def regFaults (s : State) : Word := s.faults

/-- The 16 bits `KR_VALID[15] .. KR_VALID[0]` (R44). -/
def validBits (k : Keyring) : BitVec 16 := BitVec.ofFnLE k.valid

/-- KRINFO (R44). -/
def regKrinfo (s : State) : Word :=
  s.keyring.selFix ++ 0#3 ++ selModeBit s.keyring.selMode ++ 0#3 ++ BitVec.ofNat 5 s.keyring.count
    ++ validBits s.keyring

/-- ID_OUT`k` (R45): bytes `4k` to `4k + 3`, the first in bits 31 to 24. -/
def regIdOut (s : State) (k : Nat) : Word :=
  bufByte s.idOut (4 * k) ++ bufByte s.idOut (4 * k + 1) ++ bufByte s.idOut (4 * k + 2) ++ bufByte s.idOut (4 * k + 3)

/-- FP_OUT (R46). -/
def regFpOut (s : State) : Word := 0#24 ++ s.fpOut

/-- INFO (R47). -/
def regInfo (s : State) : Word :=
  0#21 ++ BitVec.ofBool s.result.flag ++ s.result.secIdx ++ s.result.ver ++ modeBit s.result.mode
    ++ BitVec.ofBool s.result.typeMatch ++ BitVec.ofBool s.result.validTag

/-- TS_LO (R48). -/
def regTsLo (s : State) : Word := s.result.ts.extractLsb' 0 32

/-- TS_HI (R48). -/
def regTsHi (s : State) : Word := 0#16 ++ s.result.ts.extractLsb' 32 16

/-- `RegRead(addr)` (R40, R49, R62): 0 at every address that is none of the twelve. -/
def regRead (s : State) (addr : Word) : Word :=
  match addr with
  | 0x00#32 => regStatus s
  | 0x04#32 => regErr s
  | 0x08#32 => regFaults s
  | 0x0C#32 => regKrinfo s
  | 0x10#32 => regIdOut s 0
  | 0x14#32 => regIdOut s 1
  | 0x18#32 => regIdOut s 2
  | 0x1C#32 => regIdOut s 3
  | 0x20#32 => regFpOut s
  | 0x24#32 => regInfo s
  | 0x28#32 => regTsLo s
  | 0x2C#32 => regTsHi s
  | _ => 0

end Sys2Proof.Machine
end

