-- ==== Sys2Proof/Safety.lean ====
section
/-! DEFINITION. What counts as a safe run, in the terms the statements use: the invariant that reset establishes and
every step keeps, part by part with the rules it comes from, the premise "no error happened" (60_exceptions.md R203),
and three tables of the spec written out independently of the model's own code: the opcode map (30_encoding.md R83),
the legality table (60_exceptions.md R207) and the access table (10_state.md R52). -/

namespace Sys2Proof.Safety

open Sys2Proof.Machine

/-! ### The invariant -/

/-- How many indices are configured. -/
def configuredCount (k : Keyring) : Nat := ((List.finRange 16).filter k.valid).length

/-- The keyring: `KR_COUNT` counts the valid slots, and in READY there is at least one (R24). -/
def KeyringCounted (s : State) : Prop :=
  s.keyring.count = configuredCount s.keyring ∧ (s.lifeCycle = .ready → 1 ≤ s.keyring.count)

/-- No slot and no staged secret is longer than `SECRET_MAX` (R23, R25). -/
def SecretsBounded (s : State) : Prop :=
  (∀ i : Fin 16, (s.keyring.slots.get i).len ≤ Config.secretMax ∧
    (s.keyring.slots.get i).data.length ≤ Config.secretMax) ∧
  s.staging.len ≤ Config.secretMax ∧ s.staging.bytes.length ≤ Config.secretMax

/-- The selector configuration: a fixed index is configured (R26), `SEL_FIX` is 0 under the random policy (R139), and
both are 0 until a successful SEAL (R26, R50). -/
def SelectorOk (s : State) : Prop :=
  (s.lifeCycle = .ready → s.keyring.selMode = .fixed → s.keyring.valid (slotOf s.keyring.selFix) = true) ∧
  (s.keyring.selMode = .random → s.keyring.selFix = 0) ∧
  (s.lifeCycle ≠ .ready → s.keyring.selMode = .random)

/-- The operand buffers keep their ranges: `LBL_LEN` 0 to 256 and 0 for an absent label (R27, R50, R162), 255 bytes of
`LBL`, `ID_CNT` 0 to 17 (R28). -/
def OperandsOk (s : State) : Prop :=
  s.label.len ≤ 256 ∧ s.label.bytes.length ≤ 255 ∧ (s.label.present = false → s.label.len = 0) ∧ s.ident.cnt ≤ 17

/-- The cache invariant of R30: every valid entry holds the checksum of its label, and no two hold equal labels. -/
def CacheConsistent (cache : List CacheEntry) : Prop :=
  (∀ e ∈ cache, e.fp = crc8 e.label) ∧ (cache.map CacheEntry.label).Nodup

/-- The cache keeps its size: at most `CACHE_ENTRIES` entries of at most 255 label bytes (R29). -/
def CacheBounded (cache : List CacheEntry) : Prop :=
  cache.length ≤ Config.cacheEntries ∧ ∀ e ∈ cache, e.label.length ≤ 255

/-- The error registers: `ERR` is a code of R190 or 0 and its bit of `FAULTS` is set; bits 0 and 13 to 31 of `FAULTS` are
never set (R43); the block is in CFGERR exactly when a configuration error was raised (R22, R201). -/
def ErrorsOk (s : State) : Prop :=
  s.err.toNat ≤ 12 ∧ (s.err ≠ 0 → s.faults.getLsbD s.err.toNat = true) ∧ s.faults &&& 0xFFFFE001 = 0 ∧
  (s.lifeCycle = .cfgErr ↔ s.faults &&& 0x000000F8 ≠ 0)

/-- The decode result: no timestamp in mode RANDOM, and a valid tag only with version 1 and a configured index
(R177, R178). -/
def ResultOk (s : State) : Prop :=
  (s.result.mode = .random → s.result.ts = 0) ∧
  (s.result.validTag = true → s.result.ver = 1 ∧ s.keyring.valid (slotOf s.result.secIdx) = true)

/-- The invariant of the machine. -/
structure Inv (s : State) : Prop where
  keyring : KeyringCounted s
  secrets : SecretsBounded s
  selector : SelectorOk s
  operands : OperandsOk s
  cache : CacheConsistent s.cache
  cacheSize : CacheBounded s.cache
  errors : ErrorsOk s
  result : ResultOk s

/-- The premise "no error happened since reset" (R203, 70_reset_and_hazards.md R234). -/
def NoErrorYet (s : State) : Prop := s.faults = 0

/-! ### The opcode map (R83) -/

/-- One row of the opcode map. -/
structure OpcodeRow where
  mnemonic : String
  pattern : Word
  mask : Word
  deriving DecidableEq, Repr

/-- The fourteen rows of R83. -/
def opcodeRows : List OpcodeRow :=
  [⟨"NOP", 0x00000000, 0xFFFFFFFF⟩, ⟨"KEYRST", 0x01000000, 0xFFFFFFFF⟩, ⟨"KEYPUT", 0x02000000, 0xFFFFFF00⟩,
   ⟨"KEYLOAD", 0x03000000, 0xFFFFFF00⟩, ⟨"SEAL", 0x04000000, 0xFFFFFEF0⟩, ⟨"LBLRST", 0x08000000, 0xFFFFFFFF⟩,
   ⟨"LBLPUT", 0x09000000, 0xFFFFFF00⟩, ⟨"LBLNUL", 0x0A000000, 0xFFFFFFFF⟩, ⟨"IDRST", 0x0C000000, 0xFFFFFFFF⟩,
   ⟨"IDPUT", 0x0D000000, 0xFFFFFF00⟩, ⟨"IDMOV", 0x0E000000, 0xFFFFFFFF⟩, ⟨"FPRINT", 0x10000000, 0xFFFFFFFF⟩,
   ⟨"GENERATE", 0x11000000, 0xFFFFFC00⟩, ⟨"DECODE", 0x12000000, 0xFFFFFFFF⟩]

/-- The word selects the row. -/
def OpcodeRow.selectedBy (r : OpcodeRow) (w : Word) : Bool := w &&& r.mask == r.pattern

/-! ### The legality table (R207) -/

/-- Whether the command is legal in the life-cycle state; where it is not, it raises E_STATE. -/
def legalIn (i : Instr) (c : LifeCycle) : Bool :=
  match i with
  | .nop => true
  | .keyrst | .keyput _ | .keyload _ | .sealKeyring _ _ => c == .config
  | .lblrst | .lblput _ | .lblnul | .idrst | .idput _ | .idmov | .fprint => c == .config || c == .ready
  | .generate _ _ | .decode => c == .ready

/-- GENERATE and DECODE both raise E_STATE (code 2) and change nothing but the error registers (R207). -/
def RefusesIdentifiers (s : State) : Prop :=
  (∀ md tl, exec (.generate md tl) s = .next { s with err := 2, faults := s.faults ||| 0x00000004 }) ∧
  exec .decode s = .next { s with err := 2, faults := s.faults ||| 0x00000004 }

/-! ### The access table (R52) -/

/-- The state elements of R52's columns, with the input ports. -/
inductive Elem where
  | lifeCycle | krSlots | krCount | selector | keyBuf | keyBufLen | lblPresent | lblLen | lbl | idIn | idCnt | cache
  | idOut | fpOut | result | faults | timePort | randomPort | selectorPort
  deriving DecidableEq, Repr

/-- The element has the same value in both states. -/
def Elem.same (x : Elem) (s t : State) : Prop :=
  match x with
  | .lifeCycle => t.lifeCycle = s.lifeCycle
  | .krSlots => t.keyring.slots = s.keyring.slots
  | .krCount => t.keyring.count = s.keyring.count
  | .selector => t.keyring.selMode = s.keyring.selMode ∧ t.keyring.selFix = s.keyring.selFix
  | .keyBuf => t.staging.bytes = s.staging.bytes
  | .keyBufLen => t.staging.len = s.staging.len
  | .lblPresent => t.label.present = s.label.present
  | .lblLen => t.label.len = s.label.len
  | .lbl => t.label.bytes = s.label.bytes
  | .idIn => t.ident.bytes = s.ident.bytes
  | .idCnt => t.ident.cnt = s.ident.cnt
  | .cache => t.cache = s.cache
  | .idOut => t.idOut = s.idOut
  | .fpOut => t.fpOut = s.fpOut
  | .result => t.result = s.result
  | .faults => t.faults = s.faults
  | .timePort => t.inputs.time = s.inputs.time ∧ t.inputs.timeTaken = s.inputs.timeTaken
  | .randomPort => t.inputs.random = s.inputs.random ∧ t.inputs.randomTaken = s.inputs.randomTaken
  | .selectorPort => t.inputs.selector = s.inputs.selector ∧ t.inputs.selectorTaken = s.inputs.selectorTaken

/-- What a command may write when it completes without error, besides `ERR` (R52), and the ports it may read. -/
def writes (i : Instr) : List Elem :=
  match i with
  | .nop => []
  | .keyrst => [.keyBufLen]
  | .keyput _ => [.keyBuf, .keyBufLen]
  | .keyload _ => [.krSlots, .krCount, .keyBufLen]
  | .sealKeyring _ _ => [.lifeCycle, .selector, .keyBufLen]
  | .lblrst => [.lblPresent, .lblLen]
  | .lblput _ => [.lbl, .lblLen, .lblPresent]
  | .lblnul => [.lblPresent, .lblLen]
  | .idrst => [.idCnt]
  | .idput _ => [.idIn, .idCnt]
  | .idmov => [.idIn, .idCnt]
  | .fprint => [.fpOut, .cache]
  | .generate _ _ => [.idOut, .cache, .timePort, .randomPort, .selectorPort]
  | .decode => [.result, .cache]

/-! ### What the host may not see -/

/-- Two states that differ in nothing but the secrets: the bytes and the lengths of the key slots and the staged key
bytes (R36, 20_memory.md R61). -/
structure SameButSecrets (s t : State) : Prop where
  valid : t.keyring.valid = s.keyring.valid
  count : t.keyring.count = s.keyring.count
  selMode : t.keyring.selMode = s.keyring.selMode
  selFix : t.keyring.selFix = s.keyring.selFix
  keyBufLen : t.staging.len = s.staging.len
  rest : { t with keyring := s.keyring, staging := s.staging } = s

/-- The word is a GENERATE or a DECODE, the two commands whose results show something of a secret (R36). -/
def showsSecret (w : Word) : Bool :=
  match decodeWord w with
  | .ok (.generate _ _) => true
  | .ok .decode => true
  | _ => false

end Sys2Proof.Safety
end

