-- ==== Sys2Proof/Certificates/Slice0/Obligations.lean ====
section
/-! DEFINITION. The statements for the provers. Each names the rule of spec/ it formalises. A statement that speaks of
every state takes as premises only conditions on the state and the operands; where a premise is part of the machine's
invariant (Safety.lean), that the invariant holds at reset and is kept by every step is stated here too.

The notion of a step is `exec` (one command), `execWord` (one command word, legal or not) or `step` (one input of the
host); `execAll` and `execWords` are sequences of them. -/

open Sys2Proof Sys2Proof.Machine Sys2Proof.Safety

/-! ### Encoding -/

/-- Decode and encode agree, one way: every well-formed command is what its word decodes to, with every operand
(30_encoding.md R81, R82, R83, R88). -/
def Obligations.DecodeOfEncodeIsTheCommand : Prop :=
  ∀ i : Instr, i.wellFormed = true → decodeWord (encode i) = .ok i

/-- Decode and encode agree, the other way: a word that decodes is the encoding of what it decodes to, so that no bit of
a legal word is dropped, and what it decodes to is well-formed (R81, R85, R87). -/
def Obligations.EncodeOfDecodeIsTheWord : Prop :=
  ∀ (w : Word) (i : Instr), decodeWord w = .ok i → encode i = w ∧ i.wellFormed = true

/-- The decoder reads a word as the command of the row it selects by mask and match, and the rows are disjoint (R83). -/
def Obligations.DecoderFollowsTheOpcodeMap : Prop :=
  (∀ (w : Word) (r : OpcodeRow), r ∈ opcodeRows → r.selectedBy w = true →
    ∃ i, decodeWord w = .ok i ∧ mnemonic i = r.mnemonic) ∧
  (∀ (w : Word) (i : Instr), decodeWord w = .ok i →
    ∃ r ∈ opcodeRows, r.selectedBy w = true ∧ r.mnemonic = mnemonic i) ∧
  (∀ (w : Word) (r r' : OpcodeRow), r ∈ opcodeRows → r' ∈ opcodeRows → r.selectedBy w = true →
    r'.selectedBy w = true → r = r')

/-- The worked encodings of R90, the illegal ones among them; and `GENERATE RANDOM, 3`, a legal word, raises E_TAGLEN
in every state where the checks before it pass. -/
def Obligations.WorkedEncodingsDecode : Prop :=
  decodeWord 0x030000FF = .ok (.keyload (-1)) ∧ decodeWord 0x03000010 = .ok (.keyload 16) ∧
  decodeWord 0x03000000 = .ok (.keyload 0) ∧ decodeWord 0x04000105 = .ok (.sealKeyring .fixed 5) ∧
  decodeWord 0x11000101 = .ok (.generate 1 1) ∧ decodeWord 0x11000002 = .ok (.generate 0 2) ∧
  decodeWord 0x11000301 = .ok (.generate 3 1) ∧ decodeWord 0x11000003 = .ok (.generate 0 3) ∧
  decodeWord 0x0900006F = .ok (.lblput 0x6F) ∧
  (∀ w ∈ [(0x05000000 : Word), 0x12000001, 0x11000401, 0x04000010], ∀ i, decodeWord w ≠ .ok i) ∧
  (∀ (s : State) (label : List Byte), s.lifeCycle = .ready → labelOperand s.label = .ok label →
    execWord 0x11000003 s = .next { s with err := 11, faults := s.faults ||| 0x00000800 })

/-- A word that selects no row of the opcode map raises E_ILLEGAL (code 1) in every state, before any other check, and
changes nothing but `ERR` and `FAULTS` (R85, R190). -/
def Obligations.IllegalWordRaisesIllegal : Prop :=
  ∀ (w : Word) (s : State), (∀ r ∈ opcodeRows, r.selectedBy w = false) →
    execWord w s = .next { s with err := 1, faults := s.faults ||| 0x00000002 }

/-! ### One step -/

/-- A step runs the decoded command: when the host's oldest pending input is a command word that decodes to `i`, the
step is `exec i` at the state that has taken this input; `withFetchWord` puts a word there. -/
def Obligations.StepRunsTheDecodedCommand : Prop :=
  (∀ (s : State) (w : Word) (rest : List HostInput) (i : Instr), s.inputs.host = .command w :: rest →
    decodeWord w = .ok i → step s = exec i (s.withHost rest)) ∧
  (∀ (s : State) (nbits w : Nat) (i : Instr), decodeTableWord nbits w = some i →
    step (s.withFetchWord nbits w) = exec i (s.withHost s.inputs.host))

/-- Reset puts every state element at its value of R50, whatever the state before; what the outside delivers next is no
state element and stays (R220). With no pending input the block is idle and holds its state (R218). -/
def Obligations.ResetGivesTheResetValues : Prop :=
  (∀ (s : State) (rest : List HostInput), s.inputs.host = .reset :: rest →
    ∃ t, step s = .next t ∧ t.lifeCycle = .config ∧ (∀ i, t.keyring.valid i = false) ∧
      (∀ i, (t.keyring.slots.get i).len = 0) ∧ t.keyring.count = 0 ∧ t.staging.len = 0 ∧
      t.keyring.selMode = .random ∧ t.keyring.selFix = 0 ∧ t.label.present = false ∧ t.label.len = 0 ∧
      t.ident.cnt = 0 ∧ t.cache = [] ∧ (∀ k, bufByte t.idOut k = 0) ∧ t.fpOut = 0 ∧ t.result.validTag = false ∧
      t.result.typeMatch = false ∧ t.result.mode = .random ∧ t.result.ver = 0 ∧ t.result.secIdx = 0 ∧
      t.result.flag = false ∧ t.result.ts = 0 ∧ t.err = 0 ∧ t.faults = 0 ∧
      t.inputs = { s.inputs with host := rest } ∧
      (∀ a : Word, regRead t a = if a = 0 then 0x00000004 else 0)) ∧
  (∀ s : State, s.inputs.host = [] → step s = .next s)

/-- The state after a sequence of command words is the result of applying the command rules one after another
(20_memory.md R66, R69): running the block on the host's pending words, one step each, is `execWords`. -/
def Obligations.RunOfPendingWordsAppliesThemInOrder : Prop :=
  ∀ (ws : List Word) (s : State),
    Sys2Proof.core.run ws.length (s.withHost (ws.map HostInput.command)) = execWords ws (s.withHost [])

/-! ### Errors -/

/-- Error entry (R200): a command word that ends with an error code `n` has changed exactly `ERR`, bit `n` of `FAULTS`
and, for the codes 3 to 7, `STATE`; the codes are 1 to 12. -/
def Obligations.ErrorEntryIsPrecise : Prop :=
  ∀ (w : Word) (s t : State), execWord w s = .next t → t.err ≠ 0 →
    1 ≤ t.err.toNat ∧ t.err.toNat ≤ 12 ∧
    t = { s with
          err := t.err
          faults := s.faults ||| (1#32 <<< t.err.toNat)
          lifeCycle := if 3 ≤ t.err.toNat ∧ t.err.toNat ≤ 7 then .cfgErr else s.lifeCycle }

/-- `FAULTS` is sticky (R34): a command that completes leaves it, a command that fails sets the bit of its code, and
along any run of command words no bit is ever cleared. -/
def Obligations.FaultsAreSticky : Prop :=
  (∀ (w : Word) (s t : State), execWord w s = .next t → t.err = 0 → t.faults = s.faults) ∧
  (∀ (w : Word) (s t : State), execWord w s = .next t → t.err ≠ 0 → t.faults.getLsbD t.err.toNat = true) ∧
  (∀ (ws : List Word) (s t : State), execWords ws s = .next t →
    ∀ n, s.faults.getLsbD n = true → t.faults.getLsbD n = true)

/-- The premise "no error happened" (R203, 70_reset_and_hazards.md R227, R234): when `FAULTS` is 0 after a sequence of
command words, it was 0 before it and every one of the commands completed with `ERR = 0`. -/
def Obligations.NoFaultsMeansEveryCommandCompleted : Prop :=
  ∀ (ws : List Word) (s t : State), execWords ws s = .next t → NoErrorYet t →
    NoErrorYet s ∧ ∀ n, 0 < n → n ≤ ws.length → ∃ u, execWords (ws.take n) s = .next u ∧ u.err = 0

/-- The legality table (R207): a command that is not legal in the present life-cycle state raises E_STATE and does
nothing else; a legal one never raises E_STATE. -/
def Obligations.LegalityTableDecidesStateErrors : Prop :=
  ∀ (i : Instr) (s : State),
    (legalIn i s.lifeCycle = false →
      exec i s = .next { s with err := 2, faults := s.faults ||| 0x00000004 }) ∧
    (legalIn i s.lifeCycle = true → ∀ t, exec i s = .next t → t.err ≠ 2)

/-- Configuration errors (R201): codes 3 to 7 are raised only in CONFIG, move the block to CFGERR and leave the slots;
in CFGERR every command except NOP raises E_STATE and the block stays there, word after word. -/
def Obligations.ConfigurationErrorsAreFinal : Prop :=
  (∀ (w : Word) (s t : State), execWord w s = .next t → 3 ≤ t.err.toNat → t.err.toNat ≤ 7 →
    s.lifeCycle = .config ∧ t.lifeCycle = .cfgErr ∧ t.keyring = s.keyring) ∧
  (∀ (i : Instr) (s : State), s.lifeCycle = .cfgErr → i ≠ .nop →
    exec i s = .next { s with err := 2, faults := s.faults ||| 0x00000004 }) ∧
  (∀ (ws : List Word) (s t : State), s.lifeCycle = .cfgErr → execWords ws s = .next t →
    t.lifeCycle = .cfgErr ∧ t.idOut = s.idOut ∧ t.result = s.result)

/-- Errors of the other kinds, codes 1, 2 and 8 to 12, do not change `STATE` (R202). -/
def Obligations.OtherErrorsKeepTheLifeCycle : Prop :=
  ∀ (w : Word) (s t : State), execWord w s = .next t →
    t.err.toNat = 1 ∨ t.err.toNat = 2 ∨ (8 ≤ t.err.toNat ∧ t.err.toNat ≤ 12) → t.lifeCycle = s.lifeCycle

/-! ### Life cycle and keyring -/

/-- `STATE` changes only by reset, by a successful SEAL in CONFIG, or by a configuration error in CONFIG (R22, R206,
R221). -/
def Obligations.LifeCycleChangesOnlyBySealErrorOrReset : Prop :=
  ∀ s t : State, step s = .next t → t.lifeCycle ≠ s.lifeCycle →
    (∃ rest, s.inputs.host = .reset :: rest ∧ t.lifeCycle = .config) ∨
    (∃ rest w sm fix, s.inputs.host = .command w :: rest ∧ decodeWord w = .ok (.sealKeyring sm fix) ∧
      s.lifeCycle = .config ∧ t.lifeCycle = .ready ∧ t.err = 0) ∨
    (s.lifeCycle = .config ∧ t.lifeCycle = .cfgErr ∧ 3 ≤ t.err.toNat ∧ t.err.toNat ≤ 7)

/-- The keyring is immutable (R51): from READY or CFGERR no command word, and so no sequence of them, changes a slot,
`KR_COUNT`, `SEL_MODE` or `SEL_FIX`, nor leaves the life-cycle state. -/
def Obligations.KeyringIsImmutableOutsideConfig : Prop :=
  ∀ (ws : List Word) (s t : State), s.lifeCycle ≠ .config → execWords ws s = .next t →
    t.keyring = s.keyring ∧ t.lifeCycle = s.lifeCycle

/-- What each command writes (R52): a command that completes without error leaves every state element and every port
outside its row as it was, and the host's pending inputs too. -/
def Obligations.CommandsWriteOnlyTheirRow : Prop :=
  ∀ (i : Instr) (s t : State), exec i s = .next t → t.err = 0 →
    (∀ x : Elem, x ∉ writes i → x.same s t) ∧ t.inputs.host = s.inputs.host

/-- KEYRST (R135), whose word is 0x01000000: in CONFIG it empties the staging buffer and changes nothing else; elsewhere
it raises E_STATE (code 2). -/
def Obligations.KeyrstEmptiesTheStagingBuffer : Prop :=
  decodeWord 0x01000000 = .ok .keyrst ∧
  ∀ s : State,
    (s.lifeCycle = .config → exec .keyrst s = .next { s with staging := { s.staging with len := 0 }, err := 0 }) ∧
    (s.lifeCycle ≠ .config → exec .keyrst s = .next { s with err := 2, faults := s.faults ||| 0x00000004 })

/-- KEYPUT (R136), whose word is 0x02000000 plus the byte: outside CONFIG it raises E_STATE; in CONFIG with the buffer
full it raises E_KEYLEN (code 6), a configuration error; in CONFIG with room it appends the byte to the staged secret
and changes nothing else. -/
def Obligations.KeyputAppendsOrRaisesKeyLen : Prop :=
  ∀ b : Byte, decodeWord (0x02000000 + b.setWidth 32) = .ok (.keyput b) ∧
    ∀ s : State,
      (s.lifeCycle ≠ .config → exec (.keyput b) s = .next { s with err := 2, faults := s.faults ||| 0x00000004 }) ∧
      (s.lifeCycle = .config → s.staging.len = Config.secretMax →
        exec (.keyput b) s =
          .next { s with err := 6, faults := s.faults ||| 0x00000040, lifeCycle := .cfgErr }) ∧
      (s.lifeCycle = .config → s.staging.len < Config.secretMax →
        ∃ t, exec (.keyput b) s = .next t ∧ t.staging.secret = s.staging.secret ++ [b] ∧
          t.staging.len = s.staging.len + 1 ∧ t = { s with staging := t.staging, err := 0 })

/-- KEYLOAD (R137), whose word is 0x03000000 plus the index modulo 256. Its errors, in their order: E_STATE (2) outside
CONFIG; with 16 loads done E_KR_COUNT (3); for an index outside 0 to 15 E_KR_INDEX (4); for a configured index E_KR_DUP
(5); the last three are configuration errors. Otherwise the staged secret becomes the secret of the slot, the slot
becomes valid, the count goes up by one and the staging buffer is emptied; every other slot, the selector configuration
and everything else is unchanged. -/
def Obligations.KeyloadCommitsTheStagedSecret : Prop :=
  (∀ idx : Int, -128 ≤ idx → idx ≤ 127 →
    decodeWord (0x03000000 + BitVec.ofNat 32 (idx % 256).toNat) = .ok (.keyload idx)) ∧
  (∀ (idx : Int) (s : State),
    (s.lifeCycle ≠ .config → exec (.keyload idx) s = .next { s with err := 2, faults := s.faults ||| 0x00000004 }) ∧
    (s.lifeCycle = .config → s.keyring.count = 16 →
      exec (.keyload idx) s = .next { s with err := 3, faults := s.faults ||| 0x00000008, lifeCycle := .cfgErr }) ∧
    (s.lifeCycle = .config → s.keyring.count ≠ 16 → (idx < 0 ∨ 15 < idx) →
      exec (.keyload idx) s = .next { s with err := 4, faults := s.faults ||| 0x00000010, lifeCycle := .cfgErr })) ∧
  (∀ (i : Fin 16) (s : State), s.lifeCycle = .config → s.keyring.count ≠ 16 →
    (s.keyring.valid i = true →
      exec (.keyload i.val) s =
        .next { s with err := 5, faults := s.faults ||| 0x00000020, lifeCycle := .cfgErr }) ∧
    (s.keyring.valid i = false →
      ∃ t, exec (.keyload i.val) s = .next t ∧
        t.keyring.valid i = true ∧ t.keyring.secret i = s.staging.secret ∧
        (t.keyring.slots.get i).len = s.staging.len ∧ t.keyring.count = s.keyring.count + 1 ∧
        (∀ j, j ≠ i → t.keyring.slots.get j = s.keyring.slots.get j) ∧
        t.keyring.selMode = s.keyring.selMode ∧ t.keyring.selFix = s.keyring.selFix ∧
        t = { s with keyring := t.keyring, staging := { s.staging with len := 0 }, err := 0 }))

/-- SEAL (R139), whose word is 0x04000000 plus 256 times `SM` plus `FIX`: outside CONFIG it raises E_STATE (2); in CONFIG
an empty keyring raises E_KR_COUNT (3), then an unconfigured fixed index raises E_SEL (7), both configuration errors;
otherwise it fixes the policy (`FIX` only when `SM = 1`), empties the staging buffer and makes the block READY, and
nothing else changes. -/
def Obligations.SealValidatesAndFixesThePolicy : Prop :=
  ∀ fix : BitVec 4,
    decodeWord (0x04000000 + fix.setWidth 32) = .ok (.sealKeyring .random fix) ∧
    decodeWord (0x04000100 + fix.setWidth 32) = .ok (.sealKeyring .fixed fix) ∧
    ∀ s : State,
      (∀ sm, s.lifeCycle ≠ .config →
        exec (.sealKeyring sm fix) s = .next { s with err := 2, faults := s.faults ||| 0x00000004 }) ∧
      (∀ sm, s.lifeCycle = .config → s.keyring.count = 0 →
        exec (.sealKeyring sm fix) s =
          .next { s with err := 3, faults := s.faults ||| 0x00000008, lifeCycle := .cfgErr }) ∧
      (s.lifeCycle = .config → s.keyring.count ≠ 0 → s.keyring.valid (slotOf fix) = false →
        exec (.sealKeyring .fixed fix) s =
          .next { s with err := 7, faults := s.faults ||| 0x00000080, lifeCycle := .cfgErr }) ∧
      (s.lifeCycle = .config → s.keyring.count ≠ 0 →
        exec (.sealKeyring .random fix) s =
          .next { s with
            keyring := { s.keyring with selMode := .random, selFix := 0 }
            staging := { s.staging with len := 0 }
            lifeCycle := .ready
            err := 0 }) ∧
      (s.lifeCycle = .config → s.keyring.count ≠ 0 → s.keyring.valid (slotOf fix) = true →
        exec (.sealKeyring .fixed fix) s =
          .next { s with
            keyring := { s.keyring with selMode := .fixed, selFix := fix }
            staging := { s.staging with len := 0 }
            lifeCycle := .ready
            err := 0 })

/-- The pseudo-instruction KEY (30_encoding.md R89) loads any secret that fits, byte for byte, the empty one too, and
leaves the other slots and `FAULTS` as they were; a secret longer than `SECRET_MAX` ends in CFGERR with E_KEYLEN
recorded (R136, 70_reset_and_hazards.md R223). -/
def Obligations.KeySequenceLoadsTheSecret : Prop :=
  ∀ (i : Fin 16) (secret : List Byte) (s : State), s.lifeCycle = .config →
    (secret.length ≤ Config.secretMax → s.keyring.count ≠ 16 → s.keyring.valid i = false →
      ∃ t, execAll (pseudoKey i.val secret) s = .next t ∧ t.err = 0 ∧ t.lifeCycle = .config ∧
        t.keyring.lookup (indexOf i) = some secret ∧ t.keyring.count = s.keyring.count + 1 ∧
        (∀ j, j ≠ i → t.keyring.slots.get j = s.keyring.slots.get j) ∧ t.faults = s.faults) ∧
    (Config.secretMax < secret.length →
      ∃ t, execAll (.keyrst :: secret.map .keyput) s = .next t ∧ t.lifeCycle = .cfgErr ∧
        t.faults.getLsbD 6 = true ∧ t.keyring = s.keyring)

/-- Keyring construction (R140): from reset, KEYLOAD of any 1 to 16 distinct indices, so of all of 0 to 15 too, and then
SEAL reach READY with exactly these indices configured and no error; once 16 are loaded, a seventeenth KEYLOAD of any
index raises E_KR_COUNT; an index outside 0 to 15 raises E_KR_INDEX; SEAL with none loaded raises E_KR_COUNT. After each
failure the block is in CFGERR, where GENERATE and DECODE raise E_STATE. -/
def Obligations.KeyringConstructionIsValidated : Prop :=
  (∀ is : List (Fin 16), is ≠ [] → is.Nodup →
    ∃ t, execAll (is.map (fun i => Instr.keyload i.val) ++ [.sealKeyring .random 0]) State.reset = .next t ∧
      t.lifeCycle = .ready ∧ t.err = 0 ∧ t.faults = 0 ∧ t.keyring.count = is.length ∧
      ∀ i, t.keyring.valid i = true ↔ i ∈ is) ∧
  (∀ (is : List (Fin 16)) (idx : Int), is.length = 16 → is.Nodup →
    ∃ t, execAll (is.map (fun i => Instr.keyload i.val) ++ [.keyload idx]) State.reset = .next t ∧
      t.lifeCycle = .cfgErr ∧ t.err = 3 ∧ RefusesIdentifiers t) ∧
  (∀ idx : Int, idx < 0 ∨ 15 < idx →
    ∃ t, exec (.keyload idx) State.reset = .next t ∧ t.lifeCycle = .cfgErr ∧ t.err = 4 ∧ RefusesIdentifiers t) ∧
  (∀ sm fix, ∃ t, exec (.sealKeyring sm fix) State.reset = .next t ∧ t.lifeCycle = .cfgErr ∧ t.err = 3 ∧
    RefusesIdentifiers t)

/-- `SELECT()` (R134): with a non-empty set of configured indices and, in fixed mode, a configured `SEL_FIX`, it returns
a configured index; in fixed mode that index is `SEL_FIX`; in random mode every configured index is returned for some
value of the selector port. -/
def Obligations.SelectReturnsAConfiguredIndex : Prop :=
  ∀ (k : Keyring) (j : Fin 16), k.valid j = true → (k.selMode = .fixed → k.valid (slotOf k.selFix) = true) →
    (∀ port, ∃ i, k.select port = some i ∧ k.valid i = true ∧ (k.selMode = .fixed → i = slotOf k.selFix)) ∧
    (k.selMode = .random → ∃ port, k.select port = some j)

/-! ### Label and fingerprint -/

/-- LBLRST and LBLNUL (R160, R162), whose words are 0x08000000 and 0x0A000000: outside CFGERR the label becomes present
and empty, or absent, and nothing else changes; in CFGERR they raise E_STATE. -/
def Obligations.LblrstStartsAndLblnulWithdraws : Prop :=
  decodeWord 0x08000000 = .ok .lblrst ∧ decodeWord 0x0A000000 = .ok .lblnul ∧
  ∀ s : State,
    (s.lifeCycle ≠ .cfgErr →
      exec .lblrst s = .next { s with label := { s.label with present := true, len := 0 }, err := 0 } ∧
      exec .lblnul s = .next { s with label := { s.label with present := false, len := 0 }, err := 0 }) ∧
    (s.lifeCycle = .cfgErr →
      exec .lblrst s = .next { s with err := 2, faults := s.faults ||| 0x00000004 } ∧
      exec .lblnul s = .next { s with err := 2, faults := s.faults ||| 0x00000004 })

/-- LBLPUT (R161), whose word is 0x09000000 plus the byte: outside CFGERR it appends the byte to a label of less than 255
bytes, starts a new label on an absent one, and marks a label of 255 bytes or more as over-length without storing the
byte; nothing but the label buffer and `ERR` changes. In CFGERR it raises E_STATE. -/
def Obligations.LblputAppendsStartsOrMarksOverlength : Prop :=
  ∀ b : Byte, decodeWord (0x09000000 + b.setWidth 32) = .ok (.lblput b) ∧
    ∀ s : State,
      (s.lifeCycle = .cfgErr → exec (.lblput b) s = .next { s with err := 2, faults := s.faults ||| 0x00000004 }) ∧
      (∀ label, s.lifeCycle ≠ .cfgErr → labelOperand s.label = .ok label → label.length < 255 →
        ∃ t, exec (.lblput b) s = .next t ∧ labelOperand t.label = .ok (label ++ [b]) ∧
          t.label.len = s.label.len + 1 ∧ t = { s with label := t.label, err := 0 }) ∧
      (s.lifeCycle ≠ .cfgErr → s.label.present = false →
        ∃ t, exec (.lblput b) s = .next t ∧ labelOperand t.label = .ok [b] ∧ t.label.len = 1 ∧
          t = { s with label := t.label, err := 0 }) ∧
      (s.lifeCycle ≠ .cfgErr → s.label.present = true → 255 ≤ s.label.len →
        exec (.lblput b) s = .next { s with label := { s.label with len := 256 }, err := 0 })

/-- The pseudo-instruction LABEL (30_encoding.md R89) loads any label of at most 255 bytes, byte for byte, the empty one
too; a longer one is over-length and its use raises E_LABEL_LEN (R154, R161). Nothing but the label buffer and `ERR`
changes. -/
def Obligations.LabelSequenceLoadsTheLabel : Prop :=
  ∀ (label : List Byte) (s : State), s.lifeCycle ≠ .cfgErr →
    ∃ t, execAll (pseudoLabel label) s = .next t ∧ t = { s with label := t.label, err := 0 } ∧
      (label.length ≤ 255 → labelOperand t.label = .ok label ∧ t.label.len = label.length) ∧
      (255 < label.length → labelOperand t.label = .error .labelLen ∧ t.label.len = 256)

/-- The label preconditions (R154): FPRINT, GENERATE and DECODE raise E_NULL_LABEL (8) on an absent label and
E_LABEL_LEN (9) on one of more than 255 bytes, and nothing else happens; otherwise the label is the first `LBL_LEN` bytes
of the buffer. -/
def Obligations.LabelPreconditionsAreChecked : Prop :=
  ∀ s : State,
    (s.label.present = false →
      (s.lifeCycle ≠ .cfgErr → exec .fprint s = .next { s with err := 8, faults := s.faults ||| 0x00000100 }) ∧
      (∀ md tl, s.lifeCycle = .ready →
        exec (.generate md tl) s = .next { s with err := 8, faults := s.faults ||| 0x00000100 }) ∧
      (s.lifeCycle = .ready → s.ident.cnt = 16 →
        exec .decode s = .next { s with err := 8, faults := s.faults ||| 0x00000100 })) ∧
    (s.label.present = true → 255 < s.label.len →
      (s.lifeCycle ≠ .cfgErr → exec .fprint s = .next { s with err := 9, faults := s.faults ||| 0x00000200 }) ∧
      (∀ md tl, s.lifeCycle = .ready →
        exec (.generate md tl) s = .next { s with err := 9, faults := s.faults ||| 0x00000200 }) ∧
      (s.lifeCycle = .ready → s.ident.cnt = 16 →
        exec .decode s = .next { s with err := 9, faults := s.faults ||| 0x00000200 })) ∧
    (s.label.present = true → s.label.len ≤ 255 →
      ∃ label, labelOperand s.label = .ok label ∧ label.length = s.label.len ∧
        ∀ k < s.label.len, label.getD k 0 = s.label.bytes.getD k 0)

/-- FPRINT (R163, R156, R157), whose word is 0x10000000: with a legal label and a consistent cache it writes `CRC8(label)`
to `FP_OUT`; a label that is cached leaves the cache, a new one is appended while there is room; nothing else changes.
Its errors, in their order: E_STATE (2) in CFGERR, E_NULL_LABEL (8), E_LABEL_LEN (9). -/
def Obligations.FprintReportsTheChecksum : Prop :=
  decodeWord 0x10000000 = .ok .fprint ∧
  ∀ s : State,
    (s.lifeCycle = .cfgErr → exec .fprint s = .next { s with err := 2, faults := s.faults ||| 0x00000004 }) ∧
    (s.lifeCycle ≠ .cfgErr → s.label.present = false →
      exec .fprint s = .next { s with err := 8, faults := s.faults ||| 0x00000100 }) ∧
    (s.lifeCycle ≠ .cfgErr → s.label.present = true → 255 < s.label.len →
      exec .fprint s = .next { s with err := 9, faults := s.faults ||| 0x00000200 }) ∧
    (∀ label, s.lifeCycle ≠ .cfgErr → labelOperand s.label = .ok label → CacheConsistent s.cache →
      ∃ c, exec .fprint s = .next { s with fpOut := crc8 label, cache := c, err := 0 } ∧
        ((∃ e ∈ s.cache, e.label = label) → c = s.cache) ∧
        ((∀ e ∈ s.cache, e.label ≠ label) →
          c = if s.cache.length < Config.cacheEntries then s.cache ++ [⟨label, crc8 label⟩] else s.cache))

/-- The properties of `CRC8` that R152 lists: the empty and the all-zero sequences, single bytes, the byte-by-byte
recurrence through the table of single bytes, linearity over exclusive-or, the zero remainder, a collision. -/
def Obligations.CrcHasTheListedProperties : Prop :=
  crc8 [] = 0x00 ∧ (∀ n, crc8 (List.replicate n 0x00) = 0x00) ∧
  crc8 [0x01] = 0x07 ∧ crc8 [0x80] = 0x89 ∧ crc8 [0xFF] = 0xF3 ∧
  (∀ (l : List Byte) (b : Byte), crc8 (l ++ [b]) = crcStep (crc8 l) b) ∧
  (∀ c b : Byte, crcStep c b = crc8 [c ^^^ b]) ∧
  [0x00, 0x01, 0x02, 0x03, 0x04, 0x05, 0x06, 0x07].map (fun x : Byte => crc8 [x]) =
    [0x00, 0x07, 0x0E, 0x09, 0x1C, 0x1B, 0x12, 0x15] ∧
  (∀ a b : List Byte, a.length = b.length → crc8 (a.zipWith (· ^^^ ·) b) = crc8 a ^^^ crc8 b) ∧
  (∀ l : List Byte, crc8 (l ++ [crc8 l]) = 0x00) ∧
  crc8 [0x01, 0x00] = 0x15 ∧ crc8 [0x07] = 0x15

/-- The cache invariant (R30): it holds at reset and every command word preserves it. -/
def Obligations.CacheInvariantIsPreserved : Prop :=
  CacheConsistent State.reset.cache ∧
  ∀ (w : Word) (s t : State), CacheConsistent s.cache → execWord w s = .next t → CacheConsistent t.cache

/-- The cache is never stale and never evicts (R75, R157, R158): over any run of command words a consistent cache only
grows at its end, and two consistent caches give the same outcome but for the cache itself, so no result, no error and
no identifier depends on what is cached. -/
def Obligations.CacheIsTransparentAndAppendOnly : Prop :=
  (∀ (ws : List Word) (s t : State), execWords ws s = .next t → ∃ more, t.cache = s.cache ++ more) ∧
  (∀ (ws : List Word) (s t : State) (c : List CacheEntry), CacheConsistent s.cache → CacheConsistent c →
    execWords ws s = .next t → ∃ c', execWords ws { s with cache := c } = .next { t with cache := c' })

/-! ### The identifier operand -/

/-- NOP (R170), whose word is 0x00000000: in every state it clears `ERR`, so that `OK` reads 1, and changes nothing else.
IDRST and IDMOV (R171, R173), whose words are 0x0C000000 and 0x0E000000: outside CFGERR they empty the identifier
buffer, or fill it with `ID_OUT`, and change nothing else; in CFGERR they raise E_STATE. -/
def Obligations.NopIdrstIdmovEffects : Prop :=
  decodeWord 0x00000000 = .ok .nop ∧ decodeWord 0x0C000000 = .ok .idrst ∧ decodeWord 0x0E000000 = .ok .idmov ∧
  ∀ s : State,
    (exec .nop s = .next { s with err := 0 } ∧ (regRead { s with err := 0 } 0x00).getLsbD 2 = true) ∧
    (s.lifeCycle ≠ .cfgErr →
      exec .idrst s = .next { s with ident := { s.ident with cnt := 0 }, err := 0 } ∧
      exec .idmov s = .next { s with ident := { bytes := s.idOut, cnt := 16 }, err := 0 }) ∧
    (s.lifeCycle = .cfgErr →
      exec .idrst s = .next { s with err := 2, faults := s.faults ||| 0x00000004 } ∧
      exec .idmov s = .next { s with err := 2, faults := s.faults ||| 0x00000004 })

/-- IDPUT (R172), whose word is 0x0D000000 plus the byte: outside CFGERR it stores the byte at `ID_CNT` while there is
room, and otherwise discards it and marks the operand malformed; nothing but the identifier buffer and `ERR` changes.
In CFGERR it raises E_STATE. -/
def Obligations.IdputStoresOrMarksMalformed : Prop :=
  ∀ b : Byte, decodeWord (0x0D000000 + b.setWidth 32) = .ok (.idput b) ∧
    ∀ s : State,
      (s.lifeCycle = .cfgErr → exec (.idput b) s = .next { s with err := 2, faults := s.faults ||| 0x00000004 }) ∧
      (s.lifeCycle ≠ .cfgErr → s.ident.cnt < 16 →
        ∃ t, exec (.idput b) s = .next t ∧ t.ident.cnt = s.ident.cnt + 1 ∧ bufByte t.ident.bytes s.ident.cnt = b ∧
          (∀ k, k ≠ s.ident.cnt → bufByte t.ident.bytes k = bufByte s.ident.bytes k) ∧
          t = { s with ident := t.ident, err := 0 }) ∧
      (s.lifeCycle ≠ .cfgErr → 16 ≤ s.ident.cnt →
        exec (.idput b) s = .next { s with ident := { s.ident with cnt := 17 }, err := 0 })

/-- The pseudo-instruction IDENT (30_encoding.md R89) loads the identifier, first byte first; any other number of bytes
than 16 leaves the operand absent (10_state.md R28). -/
def Obligations.IdentSequenceLoadsTheIdentifier : Prop :=
  ∀ (bytes : List Byte) (s : State), s.lifeCycle ≠ .cfgErr →
    ∃ t, execAll (pseudoIdent bytes) s = .next t ∧ t = { s with ident := t.ident, err := 0 } ∧
      (∀ id : Ident, bytes = id.toList → identOperand t.ident = some id) ∧
      (bytes.length ≠ 16 → identOperand t.ident = none)

/-! ### The codec and the digest -/

/-- Packing and unpacking agree (40_codec.md R113), for every digest value. -/
def Obligations.UnpackRecoversThePackedFields : Prop :=
  ∀ (mode : Mode) (t : TagLen) (time : BitVec 48) (rb : List Byte) (fp : Byte) (idx : BitVec 4) (d : List Byte),
    rb.length = randomCount mode t → tagBytes t ≤ d.length →
    let u := unpack (finish (prefixBytes mode time rb fp idx) t d)
    u.flag = footerFlag t ∧ u.t = t ∧ u.idx = idx ∧ u.mode = mode ∧ u.fp = fp ∧ u.ver = 1 ∧
    u.ts = (if mode = .timeSorted then time else 0) ∧ u.signed = prefixBytes mode time rb fp idx ∧
    u.tag.length = tagBytes t ∧
    (t = .one → u.tag.getD 0 0 &&& 0xFE = d.getD 0 0 &&& 0xFE) ∧
    (t = .two → u.tag.getD 0 0 = d.getD 0 0 ∧ u.tag.getD 1 0 &&& 0xFE = d.getD 1 0 &&& 0xFE)

/-- Sort order (40_codec.md R114): of two TIME_SORTED identifiers the one with the smaller timestamp is the smaller
128-bit number and the first in byte order, whatever their other fields, tag lengths and tags. -/
def Obligations.TimeSortedIdentifiersSortByTime : Prop :=
  ∀ (t t' : TagLen) (time time' : BitVec 48) (rb rb' : List Byte) (fp fp' : Byte) (idx idx' : BitVec 4)
    (d d' : List Byte), rb.length = randomCount .timeSorted t → rb'.length = randomCount .timeSorted t' →
    time.toNat < time'.toNat →
    (identValue (finish (prefixBytes .timeSorted time rb fp idx) t d)).toNat <
      (identValue (finish (prefixBytes .timeSorted time' rb' fp' idx') t' d')).toNat ∧
    List.Lex (fun x y : Byte => x.toNat < y.toNat) (finish (prefixBytes .timeSorted time rb fp idx) t d).toList
      (finish (prefixBytes .timeSorted time' rb' fp' idx') t' d').toList

/-- A changed footer flag moves every field by one byte (40_codec.md R115), and UNPACK reads the result without
complaint. -/
def Obligations.FlippedFooterFlagShiftsTheLayout : Prop :=
  (∀ (mode : Mode) (time : BitVec 48) (rb : List Byte) (fp : Byte) (idx : BitVec 4) (d : List Byte) (buf : Ident),
    rb.length = randomCount mode .one → 1 ≤ d.length →
    buf.toList = prefixBytes mode time rb fp idx ++ [withFlag (d.getD 0 0) true] →
    let u := unpack buf
    u.t = .two ∧ u.tag = [infoByte idx 1 mode, withFlag (d.getD 0 0) true] ∧ u.idx = infoIndex fp ∧
    u.ver = infoVersion fp ∧ u.mode = infoMode fp ∧ some u.fp = rb.getLast? ∧
    u.signed = (prefixBytes mode time rb fp idx).take 14) ∧
  (∀ (mode : Mode) (time : BitVec 48) (rb : List Byte) (fp : Byte) (idx : BitVec 4) (d : List Byte) (buf : Ident),
    rb.length = randomCount mode .two → 2 ≤ d.length →
    buf.toList = prefixBytes mode time rb fp idx ++ [d.getD 0 0, withFlag (d.getD 1 0) false] →
    let u := unpack buf
    u.t = .one ∧ u.tag = [withFlag (d.getD 1 0) false] ∧ u.idx = infoIndex (d.getD 0 0) ∧
    u.ver = infoVersion (d.getD 0 0) ∧ u.mode = infoMode (d.getD 0 0) ∧ u.fp = infoByte idx 1 mode ∧
    u.signed = prefixBytes mode time rb fp idx ++ [d.getD 0 0])

/-- The info byte is a bijection between the triples and the 256 byte values, with the fields where R106 puts them. -/
def Obligations.InfoByteIsABijection : Prop :=
  (∀ (idx : BitVec 4) (ver : BitVec 3) (mode : Mode),
    (infoByte idx ver mode).toNat = idx.toNat * 16 + ver.toNat * 2 + (modeBit mode).toNat ∧
    infoIndex (infoByte idx ver mode) = idx ∧ infoVersion (infoByte idx ver mode) = ver ∧
    infoMode (infoByte idx ver mode) = mode) ∧
  (∀ b : Byte, infoByte (infoIndex b) (infoVersion b) (infoMode b) = b)

/-- A buffer that differs from one with a good tag only in effective tag bits has a bad tag, for every digest function
(41_digest.md R128): the same bytes before the tag, the same footer flag, and not the same buffer. -/
def Obligations.ChangedTagBitsAreRejected : Prop :=
  ∀ (digest : List Byte → List Byte) (buf buf' : Ident) (t : TagLen) (secret : List Byte),
    tagOk digest buf t secret = true → signedBytes buf' t = signedBytes buf t → bufFlag buf' = bufFlag buf →
    buf' ≠ buf → tagOk digest buf' t secret = false

/-! ### GENERATE and DECODE -/

/-- GENERATE (44_facade.md R175, 40_codec.md R102): in READY with a legal label, a mode, a tag length of 1 or 2 and an
index `i` that SELECT returns, every byte of `ID_OUT` is as the layout says: timestamp modulo 2^48, the drawn bytes in
ascending order, `CRC8(label)`, the info byte, the tag of the secret of `i` over the bytes before it, and the footer
flag. Nothing changes but `ID_OUT`, the cache, the ports that were read and `ERR`. -/
def Obligations.GenerateLaysOutTheIdentifier : Prop :=
  ∀ (s : State) (label : List Byte) (mode : Mode) (t : TagLen) (i : Fin 16),
    s.lifeCycle = .ready → labelOperand s.label = .ok label → CacheConsistent s.cache →
    s.keyring.select s.inputs.selectorValue = some i →
    ∃ u, exec (.generate ((modeBit mode).setWidth 2) (tagBytes t)) s = .next u ∧
      (mode = .timeSorted → ∀ k < 6, bufByte u.idOut k =
        BitVec.ofNat 8 (s.inputs.timeSample.toNat % 2 ^ 48 / 2 ^ (8 * (5 - k)))) ∧
      (∀ k < 14 - tagBytes t - tsEnd mode,
        bufByte u.idOut (tsEnd mode + k) = (s.inputs.randomBytes (14 - tagBytes t - tsEnd mode)).getD k 0) ∧
      bufByte u.idOut (14 - tagBytes t) = crc8 label ∧
      bufByte u.idOut (15 - tagBytes t) = infoByte (indexOf i) 1 mode ∧
      (t = .one → bufByte u.idOut 15 =
        (Config.digest (s.keyring.secret i ++ u.idOut.toList.take 15)).getD 0 0 &&& 0xFE) ∧
      (t = .two → bufByte u.idOut 14 = (Config.digest (s.keyring.secret i ++ u.idOut.toList.take 14)).getD 0 0 ∧
        bufByte u.idOut 15 = (Config.digest (s.keyring.secret i ++ u.idOut.toList.take 14)).getD 1 0 &&& 0xFE ||| 1) ∧
      u = { s with idOut := u.idOut, cache := u.cache, inputs := u.inputs, err := 0 }

/-- What a successful GENERATE takes from the ports (60_exceptions.md R212, R213, R214): the time port is read once and
only in mode TIME_SORTED, the selector port once and only under the random policy, the random port once for each random
byte; the values come in the order the ports deliver them. -/
def Obligations.GenerateReadsThePortsAsStated : Prop :=
  ∀ (s u : State) (mode : Mode) (t : TagLen),
    exec (.generate ((modeBit mode).setWidth 2) (tagBytes t)) s = .next u → u.err = 0 →
    u.inputs.host = s.inputs.host ∧
    u.inputs.timeTaken = s.inputs.timeTaken + (if mode = .timeSorted then 1 else 0) ∧
    u.inputs.time = s.inputs.time.drop (if mode = .timeSorted then 1 else 0) ∧
    u.inputs.randomTaken = s.inputs.randomTaken + (14 - tagBytes t - tsEnd mode) ∧
    u.inputs.random = s.inputs.random.drop (14 - tagBytes t - tsEnd mode) ∧
    u.inputs.selectorTaken = s.inputs.selectorTaken + (if s.keyring.selMode = .random then 1 else 0) ∧
    u.inputs.selector = s.inputs.selector.drop (if s.keyring.selMode = .random then 1 else 0)

/-- The operand errors of GENERATE in their order (R175, R198): with a legal label, E_MODE (10) for `MD` 2 or 3 whatever
`TL` is, then E_TAGLEN (11) for any `TL` but 1 and 2; no port is read, and nothing but `ERR` and `FAULTS` changes. -/
def Obligations.GenerateErrorsComeInOrder : Prop :=
  ∀ (md : BitVec 2) (tl : Nat) (s : State) (label : List Byte), s.lifeCycle = .ready →
    labelOperand s.label = .ok label →
    (2 ≤ md.toNat → exec (.generate md tl) s = .next { s with err := 10, faults := s.faults ||| 0x00000400 }) ∧
    (md.toNat < 2 → tl ≠ 1 → tl ≠ 2 →
      exec (.generate md tl) s = .next { s with err := 11, faults := s.faults ||| 0x00000800 })

/-- DECODE (R177, R178, 40_codec.md R103): in READY with an identifier and a legal label it writes the seven result
fields as the bit ranges of the 128-bit value say, with the valid tag exactly when the version is 1, the index is
configured and the effective tag bits equal those of the digest of the secret and the bytes before the tag; nothing
else but the cache and `ERR` changes. -/
def Obligations.DecodeReportsTheBitFields : Prop :=
  ∀ (s : State) (label : List Byte), s.lifeCycle = .ready → s.ident.cnt = 16 → labelOperand s.label = .ok label →
    CacheConsistent s.cache →
    ∃ u, exec .decode s = .next u ∧
      u = { s with result := u.result, cache := u.cache, err := 0 } ∧
      let v := identValue s.ident.bytes
      let n := if v.getLsbD 0 then 8 else 0
      let d := Config.digest (s.keyring.secret (slotOf (v.extractLsb' (12 + n) 4)) ++
        s.ident.bytes.toList.take (if v.getLsbD 0 then 14 else 15))
      u.result.flag = v.getLsbD 0 ∧
      u.result.secIdx = v.extractLsb' (12 + n) 4 ∧
      u.result.ver = v.extractLsb' (9 + n) 3 ∧
      u.result.mode = modeOfBit (v.extractLsb' (8 + n) 1) ∧
      (u.result.typeMatch = true ↔ v.extractLsb' (16 + n) 8 = crc8 label) ∧
      u.result.ts = (if v.extractLsb' (8 + n) 1 = 1 then v.extractLsb' 80 48 else 0) ∧
      (u.result.validTag = true ↔
        v.extractLsb' (9 + n) 3 = 1 ∧ s.keyring.valid (slotOf (v.extractLsb' (12 + n) 4)) = true ∧
        (v.getLsbD 0 = false → v.extractLsb' 1 7 = (d.getD 0 0).extractLsb' 1 7) ∧
        (v.getLsbD 0 = true → v.extractLsb' 8 8 = d.getD 0 0 ∧ v.extractLsb' 1 7 = (d.getD 1 0).extractLsb' 1 7))

/-- DECODE without an identifier raises E_NULL_ID (12), before the label is looked at (R177, R198). -/
def Obligations.DecodeWithoutIdentifierRaisesNullId : Prop :=
  ∀ s : State, s.lifeCycle = .ready → s.ident.cnt ≠ 16 →
    exec .decode s = .next { s with err := 12, faults := s.faults ||| 0x00001000 }

/-- DECODE can be repeated and gives the same result each time; it reads no port (R177, R183). -/
def Obligations.DecodeIsRepeatable : Prop :=
  ∀ s u : State, exec .decode s = .next u → u.err = 0 →
    u.inputs = s.inputs ∧ ∃ u', exec .decode u = .next u' ∧ u'.err = 0 ∧ u'.result = u.result

/-- Round trip (R179): from any READY state that satisfies the invariant, with a legal label, GENERATE, IDMOV and DECODE
complete, for both modes, both tag lengths, every value of the ports and every digest, and report a valid tag, a
matching type, version 1, the mode and tag length asked for, the selected index, and the time sample modulo 2^48 in
mode TIME_SORTED or 0 in mode RANDOM. -/
def Obligations.GenerateThenDecodeRoundTrips : Prop :=
  ∀ (s : State) (label : List Byte) (mode : Mode) (t : TagLen), Inv s → s.lifeCycle = .ready →
    labelOperand s.label = .ok label →
    ∃ i s1 s2 s3, s.keyring.select s.inputs.selectorValue = some i ∧
      exec (.generate ((modeBit mode).setWidth 2) (tagBytes t)) s = .next s1 ∧ exec .idmov s1 = .next s2 ∧
      exec .decode s2 = .next s3 ∧ s3.err = 0 ∧ s3.faults = s.faults ∧
      s3.result =
        { validTag := true
          typeMatch := true
          ts := if mode = .timeSorted then s.inputs.timeSample.setWidth 48 else 0
          secIdx := indexOf i
          mode := mode
          ver := 1
          flag := footerFlag t }

/-- A wrong label (R181 (a), 43_fingerprint.md R164): decoding with another label what was generated with `label` gives
a matching type exactly when the checksums are equal, and a valid tag all the same. -/
def Obligations.OtherLabelMatchesByChecksumOnly : Prop :=
  ∀ (s : State) (label label' : List Byte) (buffer' : LabelBuffer) (mode : Mode) (t : TagLen), Inv s →
    s.lifeCycle = .ready → labelOperand s.label = .ok label → labelOperand buffer' = .ok label' →
    ∃ s1 s2 s3, exec (.generate ((modeBit mode).setWidth 2) (tagBytes t)) s = .next s1 ∧
      exec .idmov s1 = .next s2 ∧ exec .decode { s2 with label := buffer' } = .next s3 ∧ s3.err = 0 ∧
      s3.result.validTag = true ∧ (s3.result.typeMatch = true ↔ crc8 label = crc8 label')

/-- Tampering (R181 (b) and (c)): an identifier that differs from a generated one in effective tag bits only, and any
identifier whose version is not 1 or whose index is not configured, is reported with `R_VALIDTAG = 0`, whatever the
digest, and no error is raised. -/
def Obligations.AlteredIdentifiersAreReportedInvalid : Prop :=
  (∀ (s s1 : State) (label : List Byte) (mode : Mode) (t : TagLen) (id : Ident), s.lifeCycle = .ready →
    labelOperand s.label = .ok label →
    exec (.generate ((modeBit mode).setWidth 2) (tagBytes t)) s = .next s1 →
    id ≠ s1.idOut → signedBytes id t = signedBytes s1.idOut t → bufFlag id = bufFlag s1.idOut →
    ∃ s2, exec .decode { s1 with ident := { bytes := id, cnt := 16 } } = .next s2 ∧ s2.err = 0 ∧
      s2.result.validTag = false) ∧
  (∀ (s : State) (label : List Byte) (id : Ident), s.lifeCycle = .ready → labelOperand s.label = .ok label →
    (unpack id).ver ≠ 1 ∨ s.keyring.valid (slotOf (unpack id).idx) = false →
    ∃ s2, exec .decode { s with ident := { bytes := id, cnt := 16 } } = .next s2 ∧ s2.err = 0 ∧
      s2.result.validTag = false ∧ s2.result.ver = (unpack id).ver ∧ s2.result.secIdx = (unpack id).idx)

/-! ### The register file -/

/-- The registers STATUS, ERR, FAULTS, KRINFO, FP_OUT, INFO, TS_LO and TS_HI show their fields at the bits of R41 to R44
and R46 to R48; the four ID_OUT registers together are the identifier as a 128-bit number, and two and two of them its
halves (R45, 20_memory.md R64). -/
def Obligations.RegistersShowTheirFields : Prop :=
  ∀ s : State, s.label.len ≤ 256 → s.ident.cnt ≤ 17 → s.keyring.count ≤ 16 →
    (regRead s 0x00).extractLsb' 0 2 = s.lifeCycle.code ∧ ((regRead s 0x00).getLsbD 2 = true ↔ s.err = 0) ∧
    (regRead s 0x00).getLsbD 3 = s.label.present ∧ ((regRead s 0x00).extractLsb' 4 9).toNat = s.label.len ∧
    ((regRead s 0x00).extractLsb' 13 5).toNat = s.ident.cnt ∧ (regRead s 0x00).extractLsb' 18 14 = 0 ∧
    (regRead s 0x04).toNat = s.err.toNat ∧ regRead s 0x08 = s.faults ∧
    (∀ i : Fin 16, (regRead s 0x0C).getLsbD i.val = s.keyring.valid i) ∧
    ((regRead s 0x0C).extractLsb' 16 5).toNat = s.keyring.count ∧ (regRead s 0x0C).extractLsb' 21 3 = 0 ∧
    ((regRead s 0x0C).getLsbD 24 = true ↔ s.keyring.selMode = .fixed) ∧ (regRead s 0x0C).extractLsb' 25 3 = 0 ∧
    (regRead s 0x0C).extractLsb' 28 4 = s.keyring.selFix ∧
    regRead s 0x10 ++ regRead s 0x14 = identHigh s.idOut ∧ regRead s 0x18 ++ regRead s 0x1C = identLow s.idOut ∧
    regRead s 0x10 ++ regRead s 0x14 ++ regRead s 0x18 ++ regRead s 0x1C = identValue s.idOut ∧
    (regRead s 0x20).toNat = s.fpOut.toNat ∧
    (regRead s 0x24).getLsbD 0 = s.result.validTag ∧ (regRead s 0x24).getLsbD 1 = s.result.typeMatch ∧
    (regRead s 0x24).extractLsb' 2 1 = modeBit s.result.mode ∧ (regRead s 0x24).extractLsb' 3 3 = s.result.ver ∧
    (regRead s 0x24).extractLsb' 6 4 = s.result.secIdx ∧ (regRead s 0x24).getLsbD 10 = s.result.flag ∧
    (regRead s 0x24).extractLsb' 11 21 = 0 ∧
    (regRead s 0x28).toNat = s.result.ts.toNat % 2 ^ 32 ∧ (regRead s 0x2C).toNat = s.result.ts.toNat / 2 ^ 32

/-- A read of any address that is not one of the twelve returns 0 (R49). -/
def Obligations.UnmappedReadsReturnZero : Prop :=
  ∀ (s : State) (a : Word), (¬ ∃ k : Nat, k < 12 ∧ a = BitVec.ofNat 32 (4 * k)) → regRead s a = 0

/-- Secrecy (10_state.md R36, 20_memory.md R61): two states that differ in nothing but the key slots' bytes and lengths
and the staged key bytes go on differing in nothing else under any sequence of command words without GENERATE and
DECODE, and every register reads the same in both. -/
def Obligations.SecretsStayHiddenWithoutGenerateAndDecode : Prop :=
  ∀ (ws : List Word) (s s' t : State), SameButSecrets s s' → (∀ w ∈ ws, showsSecret w = false) →
    execWords ws s = .next t →
    ∃ t', execWords ws s' = .next t' ∧ SameButSecrets t t' ∧ ∀ a, regRead t a = regRead t' a

/-! ### The machine's invariant -/

/-- `KR_COUNT` counts the configured indices (R24): it does so at reset and after every command word, and in READY it is
1 to 16. -/
def Obligations.KeyCountIsTheNumberOfConfiguredIndices : Prop :=
  KeyringCounted State.reset ∧
  (∀ (w : Word) (s t : State), KeyringCounted s → execWord w s = .next t → KeyringCounted t) ∧
  (∀ s : State, KeyringCounted s → s.lifeCycle = .ready → 1 ≤ s.keyring.count ∧ s.keyring.count ≤ 16)

/-- The invariant holds after reset (R50). -/
def Obligations.ResetSatisfiesInv : Prop := Inv State.reset

/-- Every step keeps the invariant: the keyring count, the size of the secrets, the selector configuration, the ranges
of the operand buffers, the cache, the error registers and the decode result stay as the rules say. -/
def Obligations.EveryStepKeepsInv : Prop :=
  ∀ s t : State, Inv s → step s = .next t → Inv t

/-- Every input of the host is carried out: from a state that satisfies the invariant a step always answers a next state,
with no fault and no refusal (70_reset_and_hazards.md R234: no hang, no stuck state and no refused word). -/
def Obligations.EveryStepCompletes : Prop :=
  ∀ s : State, Inv s → ∃ t, step s = .next t
end

