-- ==== Sys2Proof/Laws/Registers.lean ====
section
/-! SUPPORT. The result registers as numbers: what `regRead` answers at each of the twelve addresses, and each packed
register as a sum of its fields (10_state.md R40 to R48). -/

namespace Sys2Proof.Machine

/-- Concatenation of bit fields as arithmetic. -/
theorem append_toNat {n m : Nat} (x : BitVec n) (y : BitVec m) : (x ++ y).toNat = x.toNat * 2 ^ m + y.toNat := by
  rw [BitVec.toNat_append, ← Nat.shiftLeft_add_eq_or_of_lt y.isLt, Nat.shiftLeft_eq]

/-- A bit field as arithmetic. -/
theorem extractLsb'_toNat_of {n : Nat} {v : BitVec n} {a k c : Nat} (h : v.toNat / 2 ^ a % 2 ^ k = c) :
    (v.extractLsb' a k).toNat = c := by
  rw [BitVec.extractLsb'_toNat, Nat.shiftRight_eq_div_pow, h]

/-- A single bit as arithmetic. -/
theorem getLsbD_eq_of {n : Nat} {v : BitVec n} {a : Nat} {b : Bool} (h : v.toNat / 2 ^ a % 2 = b.toNat) :
    v.getLsbD a = b := by
  rw [BitVec.getLsbD, Nat.testBit_eq_decide_div_mod_eq, h]
  cases b <;> rfl

theorem regRead_status (s : State) : regRead s 0x00 = regStatus s := rfl
theorem regRead_err (s : State) : regRead s 0x04 = regErr s := rfl
theorem regRead_faults (s : State) : regRead s 0x08 = s.faults := rfl
theorem regRead_krinfo (s : State) : regRead s 0x0C = regKrinfo s := rfl
theorem regRead_idOut0 (s : State) : regRead s 0x10 = regIdOut s 0 := rfl
theorem regRead_idOut1 (s : State) : regRead s 0x14 = regIdOut s 1 := rfl
theorem regRead_idOut2 (s : State) : regRead s 0x18 = regIdOut s 2 := rfl
theorem regRead_idOut3 (s : State) : regRead s 0x1C = regIdOut s 3 := rfl
theorem regRead_fpOut (s : State) : regRead s 0x20 = regFpOut s := rfl
theorem regRead_info (s : State) : regRead s 0x24 = regInfo s := rfl
theorem regRead_tsLo (s : State) : regRead s 0x28 = regTsLo s := rfl
theorem regRead_tsHi (s : State) : regRead s 0x2C = regTsHi s := rfl

theorem regStatus_toNat (s : State) : (regStatus s).toNat =
    (((s.ident.cnt % 32 * 512 + s.label.len % 512) * 2 + s.label.present.toNat) * 2 + s.ok.toNat) * 4
      + s.lifeCycle.code.toNat := by
  unfold regStatus
  rw [append_toNat, append_toNat, append_toNat, append_toNat, append_toNat]
  simp

theorem regErr_toNat (s : State) : (regErr s).toNat = s.err.toNat := by
  unfold regErr
  rw [append_toNat]
  simp

theorem regKrinfo_toNat (s : State) : (regKrinfo s).toNat =
    (((s.keyring.selFix.toNat * 8 * 2 + (selModeBit s.keyring.selMode).toNat) * 8) * 32 + s.keyring.count % 32) * 65536
      + (validBits s.keyring).toNat := by
  unfold regKrinfo
  rw [append_toNat, append_toNat, append_toNat, append_toNat, append_toNat]
  simp

theorem regIdOut_toNat (s : State) (k : Nat) : (regIdOut s k).toNat =
    (((bufByte s.idOut (4 * k)).toNat * 2 ^ 8 + (bufByte s.idOut (4 * k + 1)).toNat) * 2 ^ 8
      + (bufByte s.idOut (4 * k + 2)).toNat) * 2 ^ 8 + (bufByte s.idOut (4 * k + 3)).toNat := by
  unfold regIdOut
  rw [append_toNat, append_toNat, append_toNat]

theorem regFpOut_toNat (s : State) : (regFpOut s).toNat = s.fpOut.toNat := by
  unfold regFpOut
  rw [append_toNat]
  simp

theorem regInfo_toNat (s : State) : (regInfo s).toNat =
    ((((s.result.flag.toNat * 16 + s.result.secIdx.toNat) * 8 + s.result.ver.toNat) * 2
      + (modeBit s.result.mode).toNat) * 2 + s.result.typeMatch.toNat) * 2 + s.result.validTag.toNat := by
  unfold regInfo
  rw [append_toNat, append_toNat, append_toNat, append_toNat, append_toNat, append_toNat]
  simp

end Sys2Proof.Machine
end

