-- ==== Sys2Proof/Laws/Codec.lean ====
section
/-! SUPPORT. The codec as lists of bytes: what `finish` lays out (40_codec.md R102, R111), said once as the identifier's
16 bytes in order, and what `unpack` reads from such a list (R112); big-endian numbers (00_scope.md R10). -/

namespace Sys2Proof.Machine

/-! ### Big-endian numbers -/

theorem beNat_foldl (b : List Byte) (acc : Nat) :
    b.foldl (fun a x => a * 256 + x.toNat) acc = acc * 256 ^ b.length + beNat b := by
  induction b generalizing acc with
  | nil => simp [beNat]
  | cons x b ih =>
    have h : beNat (x :: b) = x.toNat * 256 ^ b.length + beNat b := by
      have := ih (0 * 256 + x.toNat)
      rw [Nat.zero_mul, Nat.zero_add] at this
      simpa [beNat] using this
    rw [List.foldl_cons, ih, h, List.length_cons, Nat.pow_succ]
    ring

theorem beNat_cons (x : Byte) (b : List Byte) : beNat (x :: b) = x.toNat * 256 ^ b.length + beNat b := by
  have := beNat_foldl b (0 * 256 + x.toNat)
  simpa [beNat] using this

theorem beNat_append (a b : List Byte) : beNat (a ++ b) = beNat a * 256 ^ b.length + beNat b := by
  have := beNat_foldl b (beNat a)
  simpa [beNat, List.foldl_append] using this

theorem beNat_lt (b : List Byte) : beNat b < 256 ^ b.length := by
  induction b with
  | nil => simp [beNat]
  | cons x b ih =>
    rw [beNat_cons, List.length_cons, Nat.pow_succ]
    have := x.isLt
    nlinarith

@[simp] theorem toBE_length (n v : Nat) : (toBE n v).length = n := by simp [toBE]

theorem toBE_succ (n v : Nat) : toBE (n + 1) v = BitVec.ofNat 8 (v / 2 ^ (8 * n)) :: toBE n v := by
  unfold toBE
  rw [List.range_succ_eq_map, List.map_cons, List.map_map]
  congr 1
  apply List.map_congr_left
  intro i _
  have : n + 1 - 1 - Nat.succ i = n - 1 - i := by omega
  simp only [Function.comp, this]

/-- `BE(toBE(n, v)) = v mod 2^(8n)` (R10). -/
theorem beNat_toBE (n v : Nat) : beNat (toBE n v) = v % 2 ^ (8 * n) := by
  induction n with
  | zero => simp [toBE, beNat, Nat.mod_one]
  | succ n ih =>
    rw [toBE_succ, beNat_cons, ih, toBE_length, BitVec.toNat_ofNat]
    have h : 2 ^ (8 * (n + 1)) = 2 ^ (8 * n) * 2 ^ 8 := by rw [← Nat.pow_add]; rfl
    have h' : (256 : Nat) ^ n = 2 ^ (8 * n) := by rw [Nat.pow_mul]
    rw [h, h', Nat.mod_mul]
    ring

/-! ### The info byte (R106) -/

theorem infoByte_toNat (idx : BitVec 4) (ver : BitVec 3) (mode : Mode) :
    (infoByte idx ver mode).toNat = idx.toNat * 16 + ver.toNat * 2 + (modeBit mode).toNat := by
  unfold infoByte
  rw [append_toNat, append_toNat]
  omega

@[simp] theorem infoIndex_infoByte (idx : BitVec 4) (ver : BitVec 3) (mode : Mode) :
    infoIndex (infoByte idx ver mode) = idx := by
  revert idx ver; cases mode <;> decide

@[simp] theorem infoVersion_infoByte (idx : BitVec 4) (ver : BitVec 3) (mode : Mode) :
    infoVersion (infoByte idx ver mode) = ver := by
  revert idx ver; cases mode <;> decide

@[simp] theorem infoMode_infoByte (idx : BitVec 4) (ver : BitVec 3) (mode : Mode) :
    infoMode (infoByte idx ver mode) = mode := by
  revert idx ver; cases mode <;> decide

/-! ### Packing -/

theorem timestampField_length (mode : Mode) (time : BitVec 48) : (timestampField mode time).length = tsEnd mode := by
  cases mode
  · rfl
  · exact toBE_length _ _

/-- With the right number of random bytes, `PREFIX` gives the `16 - t` bytes before the tag (R110). -/
theorem prefixBytes_length {mode : Mode} {t : TagLen} {rb : List Byte} (h : rb.length = randomCount mode t)
    (time : BitVec 48) (fp : Byte) (idx : BitVec 4) : (prefixBytes mode time rb fp idx).length = offTag t := by
  simp only [prefixBytes, List.length_append, timestampField_length, h, List.length_cons, List.length_nil]
  cases mode <;> cases t <;> rfl

/-- The tag bytes with the footer flag in place (R111). -/
def tagField (t : TagLen) (d : List Byte) : List Byte :=
  match t with
  | .one => [withFlag (d.getD 0 0) false]
  | .two => [d.getD 0 0, withFlag (d.getD 1 0) true]

theorem tagField_length (t : TagLen) (d : List Byte) : (tagField t d).length = tagBytes t := by cases t <;> rfl

/-- `FINISH` as a list: the bytes before the tag, then the tag field. -/
theorem finish_toList {p : List Byte} {t : TagLen} (h : p.length = offTag t) (d : List Byte) :
    (finish p t d).toList = p ++ tagField t d := by
  apply List.ext_getElem
  · rw [List.length_append, h, tagField_length, Vector.length_toList]
    cases t <;> rfl
  · intro n h1 h2
    have h16 : n < 16 := by simpa using h1
    simp only [finish, Vector.toList_ofFn, List.getElem_ofFn]
    cases t with
    | one =>
      simp only [offTag, tagBytes] at h
      by_cases hn : n < p.length
      · rw [List.getElem_append_left hn, if_neg (by omega)]
        simp [List.getElem?_append, hn]
      · obtain rfl : n = 15 := by omega
        rw [List.getElem_append_right (by omega)]
        have h0 : 15 - p.length = 0 := by omega
        cases d <;> simp [h, tagField, footerFlag, tagBytes]
    | two =>
      simp only [offTag, tagBytes] at h
      by_cases hn : n < p.length
      · rw [List.getElem_append_left hn, if_neg (by omega)]
        simp [List.getElem?_append, hn]
      · rw [List.getElem_append_right (by omega)]
        rcases (by omega : n = 14 ∨ n = 15) with rfl | rfl
        · rcases d with _ | ⟨a, _ | ⟨b, d⟩⟩ <;> simp [h, tagField, tagBytes]
        · rcases d with _ | ⟨a, _ | ⟨b, d⟩⟩ <;> simp [h, tagField, footerFlag, tagBytes]

theorem bufByte_of_toList {buf : Ident} {l : List Byte} (h : buf.toList = l) (n : Nat) : bufByte buf n = l.getD n 0 := by
  rw [bufByte, h]

@[simp] theorem withFlag_bit (b : Byte) (flag : Bool) : (withFlag b flag).getLsbD 0 = flag := by
  revert b; cases flag <;> decide

@[simp] theorem withFlag_masked (b : Byte) (flag : Bool) : withFlag b flag &&& 0xFE = b &&& 0xFE := by
  revert b; cases flag <;> decide

/-- The 16 bytes of a buffer, as `bufByte` reads them. -/
theorem ident_toList (buf : Ident) : buf.toList = (List.range 16).map (bufByte buf) := by
  apply List.ext_getElem
  · simp
  · intro n h1 h2
    have h16 : n < 16 := by simpa using h1
    simp [bufByte, h16]

/-- Two buffers with the same bytes are equal. -/
theorem ident_ext {a b : Ident} (h : ∀ n < 16, bufByte a n = bufByte b n) : a = b := by
  rw [← Vector.toList_inj, ident_toList, ident_toList]
  apply List.map_congr_left
  intro n hn
  exact h n (by simpa using hn)

end Sys2Proof.Machine
end

