-- ==== Sys2Proof/Laws/Encoding.lean ====
section
/-! SUPPORT. What the decoder can answer, said once (`decodeWord_eq_ok_iff`), and how a word is put together from its
fields (30_encoding.md R80, R81, R83). -/

namespace Sys2Proof

theorem unlessReserved_ok {w : Word} {c : Bool} {i j : Instr} :
    unlessReserved w c i = .ok j ↔ c = true ∧ j = i := by
  unfold unlessReserved
  cases c
  · simp
  · simp [eq_comm]

theorem formatZ_ok {w : Word} {i j : Instr} : formatZ w i = .ok j ↔ w.extractLsb' 0 24 = 0 ∧ j = i := by
  simp only [formatZ, unlessReserved_ok, beq_iff_eq]

theorem formatB_ok {w : Word} {f : Byte → Instr} {j : Instr} :
    formatB w f = .ok j ↔ w.extractLsb' 8 16 = 0 ∧ j = f (lowByte w) := by
  simp only [formatB, unlessReserved_ok, beq_iff_eq]

theorem formatS_ok {w : Word} {j : Instr} :
    formatS w = .ok j ↔ (w.extractLsb' 4 4 = 0 ∧ w.extractLsb' 9 15 = 0) ∧
      j = .sealKeyring (selModeOfBit (w.extractLsb' 8 1)) (w.extractLsb' 0 4) := by
  simp only [formatS, unlessReserved_ok, beq_iff_eq, Bool.and_eq_true]

theorem formatG_ok {w : Word} {j : Instr} :
    formatG w = .ok j ↔ w.extractLsb' 10 14 = 0 ∧ j = .generate (w.extractLsb' 8 2) (lowByte w).toNat := by
  simp only [formatG, unlessReserved_ok, beq_iff_eq]

/-- Everything `decodeWord` can answer. -/
theorem decodeWord_eq_ok_iff {w : Word} {j : Instr} : decodeWord w = .ok j ↔
    (opField w = 0x00 ∧ w.extractLsb' 0 24 = 0 ∧ j = .nop) ∨
    (opField w = 0x01 ∧ w.extractLsb' 0 24 = 0 ∧ j = .keyrst) ∨
    (opField w = 0x02 ∧ w.extractLsb' 8 16 = 0 ∧ j = .keyput (lowByte w)) ∨
    (opField w = 0x03 ∧ w.extractLsb' 8 16 = 0 ∧ j = .keyload (lowByte w).toInt) ∨
    (opField w = 0x04 ∧ (w.extractLsb' 4 4 = 0 ∧ w.extractLsb' 9 15 = 0) ∧
      j = .sealKeyring (selModeOfBit (w.extractLsb' 8 1)) (w.extractLsb' 0 4)) ∨
    (opField w = 0x08 ∧ w.extractLsb' 0 24 = 0 ∧ j = .lblrst) ∨
    (opField w = 0x09 ∧ w.extractLsb' 8 16 = 0 ∧ j = .lblput (lowByte w)) ∨
    (opField w = 0x0A ∧ w.extractLsb' 0 24 = 0 ∧ j = .lblnul) ∨
    (opField w = 0x0C ∧ w.extractLsb' 0 24 = 0 ∧ j = .idrst) ∨
    (opField w = 0x0D ∧ w.extractLsb' 8 16 = 0 ∧ j = .idput (lowByte w)) ∨
    (opField w = 0x0E ∧ w.extractLsb' 0 24 = 0 ∧ j = .idmov) ∨
    (opField w = 0x10 ∧ w.extractLsb' 0 24 = 0 ∧ j = .fprint) ∨
    (opField w = 0x11 ∧ w.extractLsb' 10 14 = 0 ∧ j = .generate (w.extractLsb' 8 2) (lowByte w).toNat) ∨
    (opField w = 0x12 ∧ w.extractLsb' 0 24 = 0 ∧ j = .decode) := by
  unfold decodeWord
  generalize hop : opField w = op
  split
  case h_15 h0 h1 h2 h3 h4 h8 h9 hA hC hD hE h10 h11 h12 =>
    constructor
    · intro h; cases h
    · rintro (h | h | h | h | h | h | h | h | h | h | h | h | h | h) <;> exact absurd h.1 (by assumption)
  all_goals
    simp only [formatZ_ok, formatB_ok, formatS_ok, formatG_ok]
    constructor
    · intro h; simp [h]
    · rintro (h | h | h | h | h | h | h | h | h | h | h | h | h | h) <;>
        first | exact h.2 | exact absurd h.1 (by decide)

theorem word_of_op_low24 (w : Word) : w.extractLsb' 24 8 ++ w.extractLsb' 0 24 = w := by
  apply BitVec.eq_of_getElem_eq
  intro k hk
  simp only [BitVec.getElem_append, BitVec.getElem_extractLsb']
  split
  · simp [BitVec.getLsbD_eq_getElem hk]
  · have : 24 + (k - 24) = k := by omega
    simp [this, BitVec.getLsbD_eq_getElem hk]

theorem word_of_op_mid_low (w : Word) : w.extractLsb' 24 8 ++ w.extractLsb' 8 16 ++ w.extractLsb' 0 8 = w := by
  apply BitVec.eq_of_getElem_eq
  intro k hk
  simp only [BitVec.getElem_append, BitVec.getElem_extractLsb']
  split
  · simp [BitVec.getLsbD_eq_getElem hk]
  · split
    · have : 8 + (k - 8) = k := by omega
      simp [this, BitVec.getLsbD_eq_getElem hk]
    · have : 24 + (k - 8 - 16) = k := by omega
      simp [this, BitVec.getLsbD_eq_getElem hk]

theorem word_of_seal_fields (w : Word) :
    w.extractLsb' 24 8 ++ w.extractLsb' 9 15 ++ w.extractLsb' 8 1 ++ w.extractLsb' 4 4 ++ w.extractLsb' 0 4 = w := by
  apply BitVec.eq_of_getElem_eq
  intro k hk
  simp only [BitVec.getElem_append, BitVec.getElem_extractLsb']
  split
  · simp [BitVec.getLsbD_eq_getElem hk]
  · split
    · have : 4 + (k - 4) = k := by omega
      simp [this, BitVec.getLsbD_eq_getElem hk]
    · split
      · have : 8 + (k - 4 - 4) = k := by omega
        simp [this, BitVec.getLsbD_eq_getElem hk]
      · split
        · have : 9 + (k - 4 - 4 - 1) = k := by omega
          simp [this, BitVec.getLsbD_eq_getElem hk]
        · have : 24 + (k - 4 - 4 - 1 - 15) = k := by omega
          simp [this, BitVec.getLsbD_eq_getElem hk]

theorem word_of_generate_fields (w : Word) :
    w.extractLsb' 24 8 ++ w.extractLsb' 10 14 ++ w.extractLsb' 8 2 ++ w.extractLsb' 0 8 = w := by
  apply BitVec.eq_of_getElem_eq
  intro k hk
  simp only [BitVec.getElem_append, BitVec.getElem_extractLsb']
  split
  · simp [BitVec.getLsbD_eq_getElem hk]
  · split
    · have : 8 + (k - 8) = k := by omega
      simp [this, BitVec.getLsbD_eq_getElem hk]
    · split
      · have : 10 + (k - 8 - 2) = k := by omega
        simp [this, BitVec.getLsbD_eq_getElem hk]
      · have : 24 + (k - 8 - 2 - 14) = k := by omega
        simp [this, BitVec.getLsbD_eq_getElem hk]

/-- A word of format Z whose reserved bits are clear is its opcode over zeros. -/
theorem wordZ_opField {w : Word} (h : w.extractLsb' 0 24 = 0) : wordZ (opField w) = w := by
  have := word_of_op_low24 w
  rw [h] at this
  exact this

/-- A word of format B or K whose reserved bits are clear is its opcode, zeros and its low byte. -/
theorem wordB_opField {w : Word} (h : w.extractLsb' 8 16 = 0) : wordB (opField w) (lowByte w) = w := by
  have := word_of_op_mid_low w
  rw [h] at this
  exact this

theorem selModeOfBit_bit (m : SelMode) : selModeOfBit m.bit = m := by cases m <;> rfl

theorem bit_selModeOfBit (b : BitVec 1) : (selModeOfBit b).bit = b := by revert b; decide

end Sys2Proof
end

