-- ==== Sys2Proof/Laws/State.lean ====
section
/-! SUPPORT. One lemma for each field of each named update of the state and of its parts, true by `rfl` and tagged for
`simp`, so that no later proof unfolds a record update. -/

namespace Sys2Proof.Machine

/-! ### `State.raise` (R200) -/

@[simp] theorem State.raise_lifeCycle (s : State) (e : ErrCode) : (s.raise e).lifeCycle = (if e.isConfigError then .cfgErr else s.lifeCycle) := rfl

@[simp] theorem State.raise_keyring (s : State) (e : ErrCode) : (s.raise e).keyring = s.keyring := rfl

@[simp] theorem State.raise_staging (s : State) (e : ErrCode) : (s.raise e).staging = s.staging := rfl

@[simp] theorem State.raise_label (s : State) (e : ErrCode) : (s.raise e).label = s.label := rfl

@[simp] theorem State.raise_ident (s : State) (e : ErrCode) : (s.raise e).ident = s.ident := rfl

@[simp] theorem State.raise_cache (s : State) (e : ErrCode) : (s.raise e).cache = s.cache := rfl

@[simp] theorem State.raise_idOut (s : State) (e : ErrCode) : (s.raise e).idOut = s.idOut := rfl

@[simp] theorem State.raise_fpOut (s : State) (e : ErrCode) : (s.raise e).fpOut = s.fpOut := rfl

@[simp] theorem State.raise_result (s : State) (e : ErrCode) : (s.raise e).result = s.result := rfl

@[simp] theorem State.raise_err (s : State) (e : ErrCode) : (s.raise e).err = BitVec.ofNat 8 e.code := rfl

@[simp] theorem State.raise_faults (s : State) (e : ErrCode) : (s.raise e).faults = s.faults ||| e.faultBit := rfl

@[simp] theorem State.raise_inputs (s : State) (e : ErrCode) : (s.raise e).inputs = s.inputs := rfl

/-! ### `State.done` -/

@[simp] theorem State.done_lifeCycle (s : State) : (s.done).lifeCycle = s.lifeCycle := rfl

@[simp] theorem State.done_keyring (s : State) : (s.done).keyring = s.keyring := rfl

@[simp] theorem State.done_staging (s : State) : (s.done).staging = s.staging := rfl

@[simp] theorem State.done_label (s : State) : (s.done).label = s.label := rfl

@[simp] theorem State.done_ident (s : State) : (s.done).ident = s.ident := rfl

@[simp] theorem State.done_cache (s : State) : (s.done).cache = s.cache := rfl

@[simp] theorem State.done_idOut (s : State) : (s.done).idOut = s.idOut := rfl

@[simp] theorem State.done_fpOut (s : State) : (s.done).fpOut = s.fpOut := rfl

@[simp] theorem State.done_result (s : State) : (s.done).result = s.result := rfl

@[simp] theorem State.done_err (s : State) : (s.done).err = 0 := rfl

@[simp] theorem State.done_faults (s : State) : (s.done).faults = s.faults := rfl

@[simp] theorem State.done_inputs (s : State) : (s.done).inputs = s.inputs := rfl

/-! ### `State.withHost` -/

@[simp] theorem State.withHost_lifeCycle (s : State) (rest : List HostInput) : (s.withHost rest).lifeCycle = s.lifeCycle := rfl

@[simp] theorem State.withHost_keyring (s : State) (rest : List HostInput) : (s.withHost rest).keyring = s.keyring := rfl

@[simp] theorem State.withHost_staging (s : State) (rest : List HostInput) : (s.withHost rest).staging = s.staging := rfl

@[simp] theorem State.withHost_label (s : State) (rest : List HostInput) : (s.withHost rest).label = s.label := rfl

@[simp] theorem State.withHost_ident (s : State) (rest : List HostInput) : (s.withHost rest).ident = s.ident := rfl

@[simp] theorem State.withHost_cache (s : State) (rest : List HostInput) : (s.withHost rest).cache = s.cache := rfl

@[simp] theorem State.withHost_idOut (s : State) (rest : List HostInput) : (s.withHost rest).idOut = s.idOut := rfl

@[simp] theorem State.withHost_fpOut (s : State) (rest : List HostInput) : (s.withHost rest).fpOut = s.fpOut := rfl

@[simp] theorem State.withHost_result (s : State) (rest : List HostInput) : (s.withHost rest).result = s.result := rfl

@[simp] theorem State.withHost_err (s : State) (rest : List HostInput) : (s.withHost rest).err = s.err := rfl

@[simp] theorem State.withHost_faults (s : State) (rest : List HostInput) : (s.withHost rest).faults = s.faults := rfl

@[simp] theorem State.withHost_inputs (s : State) (rest : List HostInput) : (s.withHost rest).inputs = { s.inputs with host := rest } := rfl

/-! ### `State.applyReset` (R220) -/

@[simp] theorem State.applyReset_lifeCycle (s : State) : (s.applyReset).lifeCycle = State.reset.lifeCycle := rfl

@[simp] theorem State.applyReset_keyring (s : State) : (s.applyReset).keyring = State.reset.keyring := rfl

@[simp] theorem State.applyReset_staging (s : State) : (s.applyReset).staging = State.reset.staging := rfl

@[simp] theorem State.applyReset_label (s : State) : (s.applyReset).label = State.reset.label := rfl

@[simp] theorem State.applyReset_ident (s : State) : (s.applyReset).ident = State.reset.ident := rfl

@[simp] theorem State.applyReset_cache (s : State) : (s.applyReset).cache = State.reset.cache := rfl

@[simp] theorem State.applyReset_idOut (s : State) : (s.applyReset).idOut = State.reset.idOut := rfl

@[simp] theorem State.applyReset_fpOut (s : State) : (s.applyReset).fpOut = State.reset.fpOut := rfl

@[simp] theorem State.applyReset_result (s : State) : (s.applyReset).result = State.reset.result := rfl

@[simp] theorem State.applyReset_err (s : State) : (s.applyReset).err = State.reset.err := rfl

@[simp] theorem State.applyReset_faults (s : State) : (s.applyReset).faults = State.reset.faults := rfl

@[simp] theorem State.applyReset_inputs (s : State) : (s.applyReset).inputs = s.inputs := rfl

/-! ### Reads of the ports (R212 to R214) -/

@[simp] theorem Inputs.tookTime_host (p : Inputs) : (p.tookTime).host = p.host := rfl

@[simp] theorem Inputs.tookTime_time (p : Inputs) : (p.tookTime).time = p.time.tail := rfl

@[simp] theorem Inputs.tookTime_timeTaken (p : Inputs) : (p.tookTime).timeTaken = p.timeTaken + 1 := rfl

@[simp] theorem Inputs.tookTime_random (p : Inputs) : (p.tookTime).random = p.random := rfl

@[simp] theorem Inputs.tookTime_randomTaken (p : Inputs) : (p.tookTime).randomTaken = p.randomTaken := rfl

@[simp] theorem Inputs.tookTime_selector (p : Inputs) : (p.tookTime).selector = p.selector := rfl

@[simp] theorem Inputs.tookTime_selectorTaken (p : Inputs) : (p.tookTime).selectorTaken = p.selectorTaken := rfl

/-! ### `Inputs.tookRandom` -/

@[simp] theorem Inputs.tookRandom_host (p : Inputs) (n : Nat) : (p.tookRandom n).host = p.host := rfl

@[simp] theorem Inputs.tookRandom_time (p : Inputs) (n : Nat) : (p.tookRandom n).time = p.time := rfl

@[simp] theorem Inputs.tookRandom_timeTaken (p : Inputs) (n : Nat) : (p.tookRandom n).timeTaken = p.timeTaken := rfl

@[simp] theorem Inputs.tookRandom_random (p : Inputs) (n : Nat) : (p.tookRandom n).random = p.random.drop n := rfl

@[simp] theorem Inputs.tookRandom_randomTaken (p : Inputs) (n : Nat) : (p.tookRandom n).randomTaken = p.randomTaken + n := rfl

@[simp] theorem Inputs.tookRandom_selector (p : Inputs) (n : Nat) : (p.tookRandom n).selector = p.selector := rfl

@[simp] theorem Inputs.tookRandom_selectorTaken (p : Inputs) (n : Nat) : (p.tookRandom n).selectorTaken = p.selectorTaken := rfl

/-! ### `Inputs.tookSelector` -/

@[simp] theorem Inputs.tookSelector_host (p : Inputs) : (p.tookSelector).host = p.host := rfl

@[simp] theorem Inputs.tookSelector_time (p : Inputs) : (p.tookSelector).time = p.time := rfl

@[simp] theorem Inputs.tookSelector_timeTaken (p : Inputs) : (p.tookSelector).timeTaken = p.timeTaken := rfl

@[simp] theorem Inputs.tookSelector_random (p : Inputs) : (p.tookSelector).random = p.random := rfl

@[simp] theorem Inputs.tookSelector_randomTaken (p : Inputs) : (p.tookSelector).randomTaken = p.randomTaken := rfl

@[simp] theorem Inputs.tookSelector_selector (p : Inputs) : (p.tookSelector).selector = p.selector.tail := rfl

@[simp] theorem Inputs.tookSelector_selectorTaken (p : Inputs) : (p.tookSelector).selectorTaken = p.selectorTaken + 1 := rfl

/-! ### The operand buffers and the keyring -/

@[simp] theorem KeyStaging.clear_bytes (k : KeyStaging) : (k.clear).bytes = k.bytes := rfl

@[simp] theorem KeyStaging.clear_len (k : KeyStaging) : (k.clear).len = 0 := rfl

@[simp] theorem KeyStaging.put_bytes (k : KeyStaging) (b : Byte) : (k.put b).bytes = putByte k.bytes k.len b := rfl

@[simp] theorem KeyStaging.put_len (k : KeyStaging) (b : Byte) : (k.put b).len = k.len + 1 := rfl

@[simp] theorem LabelBuffer.start_present (l : LabelBuffer) : (l.start).present = true := rfl

@[simp] theorem LabelBuffer.start_len (l : LabelBuffer) : (l.start).len = 0 := rfl

@[simp] theorem LabelBuffer.start_bytes (l : LabelBuffer) : (l.start).bytes = l.bytes := rfl

@[simp] theorem LabelBuffer.drop_present (l : LabelBuffer) : (l.drop).present = false := rfl

@[simp] theorem LabelBuffer.drop_len (l : LabelBuffer) : (l.drop).len = 0 := rfl

@[simp] theorem LabelBuffer.drop_bytes (l : LabelBuffer) : (l.drop).bytes = l.bytes := rfl

@[simp] theorem IdBuffer.clear_bytes (d : IdBuffer) : (d.clear).bytes = d.bytes := rfl

@[simp] theorem IdBuffer.clear_cnt (d : IdBuffer) : (d.clear).cnt = 0 := rfl

@[simp] theorem IdBuffer.fill_bytes (d : IdBuffer) (id : Ident) : (d.fill id).bytes = id := rfl

@[simp] theorem IdBuffer.fill_cnt (d : IdBuffer) (id : Ident) : (d.fill id).cnt = 16 := rfl

@[simp] theorem Keyring.load_count (k : Keyring) (i : Fin 16) (x : List Byte) : (k.load i x).count = k.count + 1 := rfl

@[simp] theorem Keyring.load_selMode (k : Keyring) (i : Fin 16) (x : List Byte) : (k.load i x).selMode = k.selMode := rfl

@[simp] theorem Keyring.load_selFix (k : Keyring) (i : Fin 16) (x : List Byte) : (k.load i x).selFix = k.selFix := rfl

@[simp] theorem Keyring.setSelector_slots (k : Keyring) (sm : SelMode) (fix : BitVec 4) : (k.setSelector sm fix).slots = k.slots := rfl

@[simp] theorem Keyring.setSelector_count (k : Keyring) (sm : SelMode) (fix : BitVec 4) : (k.setSelector sm fix).count = k.count := rfl

@[simp] theorem Keyring.setSelector_selMode (k : Keyring) (sm : SelMode) (fix : BitVec 4) : (k.setSelector sm fix).selMode = sm := rfl

/-- A step of the outside world never touches the host's own pending inputs. -/
@[simp] theorem Keyring.tookSelection_host (k : Keyring) (p : Inputs) : (k.tookSelection p).host = p.host := by
  unfold Keyring.tookSelection; split <;> rfl

@[simp] theorem Inputs.tookTimestamp_host (p : Inputs) (mode : Mode) : (p.tookTimestamp mode).host = p.host := by
  cases mode <;> rfl

end Sys2Proof.Machine
end

