-- ==== Sys2Proof/Laws/Ops.lean ====
section
/-! SUPPORT. For each shared operation, what it can do, said once: the byte arrays, the operand buffers, the keyring and
its selector, the fingerprint cache, and error entry. -/

namespace Sys2Proof.Machine

/-! ### Byte arrays -/

@[simp] theorem slice_length (buf : ByteBuf) (n : Nat) : (slice buf n).length = n := by
  simp only [slice, List.length_append, List.length_take, List.length_replicate]
  omega

@[simp] theorem slice_zero (buf : ByteBuf) : slice buf 0 = [] := List.eq_nil_of_length_eq_zero (slice_length buf 0)

/-- Bytes that stand at the front of an array are read back. -/
theorem slice_append (x rest : List Byte) : slice (x ++ rest) x.length = x := by
  simp [slice]

/-- A byte written at `n` is read back after the `n` bytes before it. -/
theorem slice_putByte (buf : ByteBuf) (n : Nat) (b : Byte) : slice (putByte buf n b) (n + 1) = slice buf n ++ [b] := by
  have h : putByte buf n b = (slice buf n ++ [b]) ++ buf.drop (n + 1) := by simp [putByte]
  have hl : (slice buf n ++ [b]).length = n + 1 := by simp
  rw [h, ← hl]
  exact slice_append _ _

theorem putByte_length (buf : ByteBuf) (n : Nat) (b : Byte) : (putByte buf n b).length = max (n + 1) buf.length := by
  simp only [putByte, List.length_append, slice_length, List.length_cons, List.length_drop]
  omega

/-- Bytes written over the front of an array are read back. -/
theorem slice_putBytes (buf : ByteBuf) (x : List Byte) : slice (putBytes buf x) x.length = x := slice_append _ _

theorem putBytes_length (buf : ByteBuf) (x : List Byte) : (putBytes buf x).length = max x.length buf.length := by
  simp only [putBytes, List.length_append, List.length_drop]
  omega

/-! ### Operand buffers -/

@[simp] theorem KeyStaging.put_secret (k : KeyStaging) (b : Byte) : (k.put b).secret = k.secret ++ [b] :=
  slice_putByte _ _ _

@[simp] theorem KeyStaging.clear_secret (k : KeyStaging) : k.clear.secret = [] := slice_zero _

@[simp] theorem KeyStaging.secret_length (k : KeyStaging) : k.secret.length = k.len := slice_length _ _

/-- Everything CHECK_LABEL can answer (R154). -/
theorem labelOperand_eq_ok_iff {l : LabelBuffer} {label : List Byte} :
    labelOperand l = .ok label ↔ l.present = true ∧ l.len ≤ 255 ∧ label = slice l.bytes l.len := by
  unfold labelOperand Config.labelMax
  split
  · simp_all
  · split
    · constructor
      · intro h; cases h
      · intro h; omega
    · constructor
      · intro h; cases h; refine ⟨by simp_all, by omega, rfl⟩
      · rintro ⟨_, _, rfl⟩; rfl

theorem labelOperand_eq_error_iff {l : LabelBuffer} {e : ErrCode} :
    labelOperand l = .error e ↔
      (l.present = false ∧ e = .nullLabel) ∨ (l.present = true ∧ 255 < l.len ∧ e = .labelLen) := by
  unfold labelOperand Config.labelMax
  split
  · rename_i h
    simp only [h, Except.error.injEq, true_and, Bool.false_eq_true, false_and, or_false]
    exact eq_comm
  · rename_i h
    have h' : l.present = true := by simpa using h
    split
    · rename_i hl
      simp only [h', hl, Except.error.injEq, true_and, Bool.true_eq_false, false_and, false_or]
      exact eq_comm
    · simp_all

theorem labelOperand_length {l : LabelBuffer} {label : List Byte} (h : labelOperand l = .ok label) :
    label.length = l.len ∧ label.length ≤ 255 := by
  obtain ⟨_, h2, rfl⟩ := labelOperand_eq_ok_iff.1 h
  simp [h2]

theorem labelOperand_start (l : LabelBuffer) : labelOperand l.start = .ok [] := by
  simp [labelOperand_eq_ok_iff]

/-- LBLPUT on a label with room appends the byte. -/
theorem labelOperand_put {l : LabelBuffer} {label : List Byte} (h : labelOperand l = .ok label)
    (hl : label.length < 255) (b : Byte) : labelOperand (l.put b) = .ok (label ++ [b]) := by
  obtain ⟨h1, h2, rfl⟩ := labelOperand_eq_ok_iff.1 h
  rw [slice_length] at hl
  have h3 : l.put b = ⟨true, l.len + 1, putByte l.bytes l.len b⟩ := by
    simp [LabelBuffer.put, LabelBuffer.putAt, h1, Config.labelMax, hl]
  rw [h3, labelOperand_eq_ok_iff]
  refine ⟨rfl, hl, ?_⟩
  exact (slice_putByte _ _ _).symm

/-- LBLPUT on an absent label starts a new one. -/
theorem labelOperand_put_absent {l : LabelBuffer} (h : l.present = false) (b : Byte) :
    labelOperand (l.put b) = .ok [b] := by
  have h3 : l.put b = ⟨true, 0 + 1, putByte l.bytes 0 b⟩ := by
    simp [LabelBuffer.put, LabelBuffer.putAt, h, Config.labelMax]
  rw [h3, labelOperand_eq_ok_iff]
  refine ⟨rfl, by simp, ?_⟩
  have := slice_putByte l.bytes 0 b
  simpa using this.symm

/-- LBLPUT on a full or over-length label marks it over-length. -/
theorem LabelBuffer.put_full {l : LabelBuffer} (h : l.present = true) (hl : 255 ≤ l.len) (b : Byte) :
    l.put b = { l with len := 256 } := by
  have : ¬ l.len < 255 := by omega
  cases l
  simp_all [LabelBuffer.put, LabelBuffer.putAt, Config.labelMax]

theorem identOperand_eq_some_iff {d : IdBuffer} {id : Ident} :
    identOperand d = some id ↔ d.cnt = 16 ∧ d.bytes = id := by
  unfold identOperand; split <;> simp_all

theorem keyIndex_eq_some_iff {idx : Int} {i : Fin 16} : keyIndex idx = some i ↔ idx = i.val := by
  unfold keyIndex
  split
  · rename_i h
    constructor
    · intro e; cases e; simp only []; omega
    · intro e; congr 1; apply Fin.ext; simp only []; omega
  · rename_i h
    constructor
    · intro e; cases e
    · intro e; have := i.isLt; omega

theorem keyIndex_eq_none_iff {idx : Int} : keyIndex idx = none ↔ idx < 0 ∨ 15 < idx := by
  unfold keyIndex
  split <;> simp <;> omega

theorem modeOperand_modeBit (mode : Mode) : modeOperand ((modeBit mode).setWidth 2) = some mode := by
  cases mode <;> rfl

theorem modeOperand_eq_some_iff {md : BitVec 2} {mode : Mode} :
    modeOperand md = some mode ↔ md = (modeBit mode).setWidth 2 := by
  revert md; cases mode <;> decide

theorem tagLenOperand_tagBytes (t : TagLen) : tagLenOperand (tagBytes t) = some t := by cases t <;> rfl

theorem tagLenOperand_eq_some_iff {tl : Nat} {t : TagLen} : tagLenOperand tl = some t ↔ tl = tagBytes t := by
  unfold tagLenOperand
  split <;> cases t <;> simp_all [tagBytes]

/-! ### Keyring and selector -/

@[simp] theorem slotOf_indexOf (i : Fin 16) : slotOf (indexOf i) = i := rfl

@[simp] theorem indexOf_slotOf (x : BitVec 4) : indexOf (slotOf x) = x := rfl

theorem Keyring.load_slot (k : Keyring) (i j : Fin 16) (x : List Byte) :
    (k.load i x).slots.get j =
      if j = i then { valid := true, len := x.length, data := putBytes (k.slots.get i).data x } else k.slots.get j := by
  simp only [Keyring.load, Vector.get_eq_getElem, Vector.getElem_set]
  by_cases h : j = i
  · subst h; simp
  · have : ¬ i.val = j.val := fun e => h (Fin.ext e.symm)
    simp [h, this]

/-- KEYLOAD makes the staged bytes the slot's secret. -/
@[simp] theorem Keyring.load_secret (k : Keyring) (i : Fin 16) (x : List Byte) : (k.load i x).secret i = x := by
  rw [Keyring.secret, Keyring.load_slot, if_pos rfl]
  exact slice_putBytes _ _

theorem Keyring.load_valid (k : Keyring) (i j : Fin 16) (x : List Byte) :
    (k.load i x).valid j = if j = i then true else k.valid j := by
  rw [Keyring.valid, Keyring.load_slot]
  split <;> rfl

/-- `draw_sel(S)` never leaves `S` (R214). -/
theorem drawSel_mem {valid : Fin 16 → Bool} {port i : Fin 16} (h : drawSel valid port = some i) : valid i = true :=
  List.find?_some h

/-- `draw_sel(S)` has an answer for every non-empty `S`. -/
theorem drawSel_isSome {valid : Fin 16 → Bool} {j : Fin 16} (h : valid j = true) (port : Fin 16) :
    ∃ i, drawSel valid port = some i ∧ valid i = true := by
  have : (drawSel valid port).isSome := by
    rw [drawSel, List.find?_isSome]
    refine ⟨j, List.mem_map.2 ⟨j - port, List.mem_finRange _, ?_⟩, h⟩
    omega
  obtain ⟨i, hi⟩ := Option.isSome_iff_exists.1 this
  exact ⟨i, hi, drawSel_mem hi⟩

/-- The port's own choice is taken when it is in `S`. -/
theorem drawSel_of_valid {valid : Fin 16 → Bool} {port : Fin 16} (h : valid port = true) :
    drawSel valid port = some port := by
  have : List.finRange 16 = 0 :: (List.finRange 15).map Fin.succ := List.finRange_succ
  rw [drawSel, this]
  simp [h]

theorem Keyring.lookup_eq_some_iff {k : Keyring} {idx : BitVec 4} {x : List Byte} :
    k.lookup idx = some x ↔ k.valid (slotOf idx) = true ∧ k.secret (slotOf idx) = x := by
  unfold Keyring.lookup; split <;> simp_all

/-! ### The fingerprint cache -/

/-- A hit is an entry whose whole label is the one looked up (R155). -/
theorem cacheHit_eq_some {cache : List CacheEntry} {label : List Byte} {e : CacheEntry}
    (h : cacheHit cache label = some e) : e ∈ cache ∧ e.label = label := by
  refine ⟨List.mem_of_find?_eq_some h, ?_⟩
  have := List.find?_some h
  simpa using this

theorem cacheHit_eq_none_iff {cache : List CacheEntry} {label : List Byte} :
    cacheHit cache label = none ↔ ∀ e ∈ cache, e.label ≠ label := by
  simp [cacheHit, List.find?_eq_none]

/-- With consistent entries `FP(L) = CRC8(L)` (R158). -/
theorem fpValue_eq_crc8 {cache : List CacheEntry} (h : ∀ e ∈ cache, e.fp = crc8 e.label) (label : List Byte) :
    fpValue cache label = crc8 label := by
  unfold fpValue
  split
  · rename_i e he
    obtain ⟨h1, h2⟩ := cacheHit_eq_some he
    rw [h e h1, h2]
  · rfl

/-- Everything the fill can do (R156, R157): nothing, or one entry at the end after a miss. -/
theorem fpFill_cases (entries : Nat) (cache : List CacheEntry) (label : List Byte) :
    fpFill entries cache label = cache ∨
      (fpFill entries cache label = cache ++ [⟨label, crc8 label⟩] ∧ cache.length < entries ∧
        ∀ e ∈ cache, e.label ≠ label) := by
  unfold fpFill
  split
  · exact .inl rfl
  · rename_i h
    split
    · exact .inr ⟨rfl, by assumption, cacheHit_eq_none_iff.1 h⟩
    · exact .inl rfl

/-! ### Error entry (R200) -/

/-- The numbers of the configuration errors are 3 to 7 (R190). -/
theorem ErrCode.isConfigError_iff (e : ErrCode) : e.isConfigError = true ↔ 3 ≤ e.code ∧ e.code ≤ 7 := by
  cases e <;> decide

theorem ErrCode.code_range (e : ErrCode) : 1 ≤ e.code ∧ e.code ≤ 12 := by cases e <;> decide

theorem State.raise_err_toNat (s : State) (e : ErrCode) : (s.raise e).err.toNat = e.code := by
  cases e <;> rfl

theorem State.raise_err_ne_zero (s : State) (e : ErrCode) : (s.raise e).err ≠ 0 := by
  cases e <;> (simp only [State.raise_err, ErrCode.code]; decide)

end Sys2Proof.Machine
end

