-- ==== Sys2Proof/Laws/Exec.lean ====
section
/-! SUPPORT. What each command can do, said once: if its meaning answers a next state, one of the listed cases holds, and
the state is the one named. The provers cite these instead of unfolding the meanings. -/

namespace Sys2Proof.Machine

theorem execNop_cases {s t : State} (h : execNop s = .next t) : t = s.done := by
  simpa [execNop, eq_comm] using h

theorem execKeyrst_cases {s t : State} (h : execKeyrst s = .next t) :
    (s.lifeCycle ≠ .config ∧ t = s.raise .state) ∨
    (s.lifeCycle = .config ∧ t = { s with staging := s.staging.clear, err := 0 }) := by
  unfold execKeyrst at h
  split at h
  · exact .inl ⟨by assumption, by cases h; rfl⟩
  · exact .inr ⟨by simp_all, by cases h; rfl⟩

theorem execKeyput_cases {b : Byte} {s t : State} (h : execKeyput b s = .next t) :
    (s.lifeCycle ≠ .config ∧ t = s.raise .state) ∨
    (s.lifeCycle = .config ∧ s.staging.len = Config.secretMax ∧ t = s.raise .keyLen) ∨
    (s.lifeCycle = .config ∧ s.staging.len ≠ Config.secretMax ∧ t = { s with staging := s.staging.put b, err := 0 }) := by
  unfold execKeyput at h
  split at h
  · exact .inl ⟨by assumption, by cases h; rfl⟩
  · split at h
    · exact .inr (.inl ⟨by simp_all, by assumption, by cases h; rfl⟩)
    · exact .inr (.inr ⟨by simp_all, by assumption, by cases h; rfl⟩)

theorem execKeyload_cases {idx : Int} {s t : State} (h : execKeyload idx s = .next t) :
    (s.lifeCycle ≠ .config ∧ t = s.raise .state) ∨
    (s.lifeCycle = .config ∧ s.keyring.count = 16 ∧ t = s.raise .krCount) ∨
    (s.lifeCycle = .config ∧ s.keyring.count ≠ 16 ∧ keyIndex idx = none ∧ t = s.raise .krIndex) ∨
    (∃ i, s.lifeCycle = .config ∧ s.keyring.count ≠ 16 ∧ keyIndex idx = some i ∧ s.keyring.valid i = true ∧
      t = s.raise .krDup) ∨
    (∃ i, s.lifeCycle = .config ∧ s.keyring.count ≠ 16 ∧ keyIndex idx = some i ∧ s.keyring.valid i = false ∧
      t = { s with keyring := s.keyring.load i s.staging.secret, staging := s.staging.clear, err := 0 }) := by
  unfold execKeyload at h
  split at h
  · exact .inl ⟨by assumption, by cases h; rfl⟩
  · split at h
    · exact .inr (.inl ⟨by simp_all, by assumption, by cases h; rfl⟩)
    · split at h
      · exact .inr (.inr (.inl ⟨by simp_all, by assumption, by assumption, by cases h; rfl⟩))
      · rename_i i hi
        split at h
        · exact .inr (.inr (.inr (.inl ⟨i, by simp_all, by assumption, hi, by assumption, by cases h; rfl⟩)))
        · exact .inr (.inr (.inr (.inr ⟨i, by simp_all, by assumption, hi, by simp_all, by cases h; rfl⟩)))

theorem execSeal_cases {sm : SelMode} {fix : BitVec 4} {s t : State} (h : execSeal sm fix s = .next t) :
    (s.lifeCycle ≠ .config ∧ t = s.raise .state) ∨
    (s.lifeCycle = .config ∧ s.keyring.count = 0 ∧ t = s.raise .krCount) ∨
    (s.lifeCycle = .config ∧ s.keyring.count ≠ 0 ∧ (sm = .fixed ∧ s.keyring.valid (slotOf fix) = false) ∧
      t = s.raise .sel) ∨
    (s.lifeCycle = .config ∧ s.keyring.count ≠ 0 ∧ ¬ (sm = .fixed ∧ s.keyring.valid (slotOf fix) = false) ∧
      t = { s with keyring := s.keyring.setSelector sm fix, staging := s.staging.clear, lifeCycle := .ready, err := 0 }) := by
  unfold execSeal at h
  split at h
  · exact .inl ⟨by assumption, by cases h; rfl⟩
  · split at h
    · exact .inr (.inl ⟨by simp_all, by assumption, by cases h; rfl⟩)
    · split at h
      · exact .inr (.inr (.inl ⟨by simp_all, by assumption, by assumption, by cases h; rfl⟩))
      · exact .inr (.inr (.inr ⟨by simp_all, by assumption, by assumption, by cases h; rfl⟩))

theorem execLblrst_cases {s t : State} (h : execLblrst s = .next t) :
    (s.lifeCycle = .cfgErr ∧ t = s.raise .state) ∨
    (s.lifeCycle ≠ .cfgErr ∧ t = { s with label := s.label.start, err := 0 }) := by
  unfold execLblrst at h
  split at h
  · exact .inl ⟨by assumption, by cases h; rfl⟩
  · exact .inr ⟨by assumption, by cases h; rfl⟩

theorem execLblput_cases {b : Byte} {s t : State} (h : execLblput b s = .next t) :
    (s.lifeCycle = .cfgErr ∧ t = s.raise .state) ∨
    (s.lifeCycle ≠ .cfgErr ∧ t = { s with label := s.label.put b, err := 0 }) := by
  unfold execLblput at h
  split at h
  · exact .inl ⟨by assumption, by cases h; rfl⟩
  · exact .inr ⟨by assumption, by cases h; rfl⟩

theorem execLblnul_cases {s t : State} (h : execLblnul s = .next t) :
    (s.lifeCycle = .cfgErr ∧ t = s.raise .state) ∨
    (s.lifeCycle ≠ .cfgErr ∧ t = { s with label := s.label.drop, err := 0 }) := by
  unfold execLblnul at h
  split at h
  · exact .inl ⟨by assumption, by cases h; rfl⟩
  · exact .inr ⟨by assumption, by cases h; rfl⟩

theorem execFprint_cases {s t : State} (h : execFprint s = .next t) :
    (s.lifeCycle = .cfgErr ∧ t = s.raise .state) ∨
    (∃ e, s.lifeCycle ≠ .cfgErr ∧ labelOperand s.label = .error e ∧ t = s.raise e) ∨
    (∃ label, s.lifeCycle ≠ .cfgErr ∧ labelOperand s.label = .ok label ∧
      t = { s with
            fpOut := fpValue s.cache label
            cache := fpFill Config.cacheEntries s.cache label
            err := 0 }) := by
  unfold execFprint at h
  split at h
  · exact .inl ⟨by assumption, by cases h; rfl⟩
  · split at h
    · exact .inr (.inl ⟨_, by assumption, by assumption, by cases h; rfl⟩)
    · exact .inr (.inr ⟨_, by assumption, by assumption, by cases h; rfl⟩)

theorem execIdrst_cases {s t : State} (h : execIdrst s = .next t) :
    (s.lifeCycle = .cfgErr ∧ t = s.raise .state) ∨
    (s.lifeCycle ≠ .cfgErr ∧ t = { s with ident := s.ident.clear, err := 0 }) := by
  unfold execIdrst at h
  split at h
  · exact .inl ⟨by assumption, by cases h; rfl⟩
  · exact .inr ⟨by assumption, by cases h; rfl⟩

theorem execIdput_cases {b : Byte} {s t : State} (h : execIdput b s = .next t) :
    (s.lifeCycle = .cfgErr ∧ t = s.raise .state) ∨
    (s.lifeCycle ≠ .cfgErr ∧ t = { s with ident := s.ident.put b, err := 0 }) := by
  unfold execIdput at h
  split at h
  · exact .inl ⟨by assumption, by cases h; rfl⟩
  · exact .inr ⟨by assumption, by cases h; rfl⟩

theorem execIdmov_cases {s t : State} (h : execIdmov s = .next t) :
    (s.lifeCycle = .cfgErr ∧ t = s.raise .state) ∨
    (s.lifeCycle ≠ .cfgErr ∧ t = { s with ident := s.ident.fill s.idOut, err := 0 }) := by
  unfold execIdmov at h
  split at h
  · exact .inl ⟨by assumption, by cases h; rfl⟩
  · exact .inr ⟨by assumption, by cases h; rfl⟩

/-- Steps 3 to 10 of GENERATE, once an index is selected (R175). -/
def State.generated (s : State) (label : List Byte) (mode : Mode) (t : TagLen) (i : Fin 16) : State :=
  { s with
    idOut := composeIdent Config.digest (s.keyring.secret i) mode t (s.inputs.timestamp mode)
      (s.inputs.randomBytes (randomCount mode t)) (fpValue s.cache label) (indexOf i)
    cache := fpFill Config.cacheEntries s.cache label
    inputs := ((s.keyring.tookSelection s.inputs).tookTimestamp mode).tookRandom (randomCount mode t)
    err := 0 }

theorem generate_of_select {s : State} {label : List Byte} {mode : Mode} {t : TagLen} {i : Fin 16}
    (h : s.keyring.select s.inputs.selectorValue = some i) :
    s.generate label mode t = .next (s.generated label mode t i) := by
  simp [State.generate, State.generated, h]

theorem generate_cases {s u : State} {label : List Byte} {mode : Mode} {t : TagLen}
    (h : s.generate label mode t = .next u) :
    ∃ i, s.keyring.select s.inputs.selectorValue = some i ∧ u = s.generated label mode t i := by
  unfold State.generate at h
  split at h
  · cases h
  · rename_i i hi
    exact ⟨i, hi, by cases h; rfl⟩

theorem execGenerate_cases {md : BitVec 2} {tl : Nat} {s u : State} (h : execGenerate md tl s = .next u) :
    (s.lifeCycle ≠ .ready ∧ u = s.raise .state) ∨
    (∃ e, s.lifeCycle = .ready ∧ labelOperand s.label = .error e ∧ u = s.raise e) ∨
    (∃ label, s.lifeCycle = .ready ∧ labelOperand s.label = .ok label ∧ modeOperand md = none ∧ u = s.raise .mode) ∨
    (∃ label mode, s.lifeCycle = .ready ∧ labelOperand s.label = .ok label ∧ modeOperand md = some mode ∧
      tagLenOperand tl = none ∧ u = s.raise .tagLen) ∨
    (∃ label mode t i, s.lifeCycle = .ready ∧ labelOperand s.label = .ok label ∧ modeOperand md = some mode ∧
      tagLenOperand tl = some t ∧ s.keyring.select s.inputs.selectorValue = some i ∧
      u = s.generated label mode t i) := by
  unfold execGenerate at h
  split at h
  · exact .inl ⟨by assumption, by cases h; rfl⟩
  · rename_i hc
    have hr : s.lifeCycle = .ready := by simpa using hc
    split at h
    · exact .inr (.inl ⟨_, hr, by assumption, by cases h; rfl⟩)
    · split at h
      · exact .inr (.inr (.inl ⟨_, hr, by assumption, by assumption, by cases h; rfl⟩))
      · split at h
        · exact .inr (.inr (.inr (.inl ⟨_, _, hr, by assumption, by assumption, by assumption, by cases h; rfl⟩)))
        · obtain ⟨i, hi, hu⟩ := generate_cases h
          exact .inr (.inr (.inr (.inr ⟨_, _, _, i, hr, by assumption, by assumption, by assumption, hi, hu⟩)))

theorem execDecode_cases {s u : State} (h : execDecode s = .next u) :
    (s.lifeCycle ≠ .ready ∧ u = s.raise .state) ∨
    (s.lifeCycle = .ready ∧ identOperand s.ident = none ∧ u = s.raise .nullId) ∨
    (∃ buf e, s.lifeCycle = .ready ∧ identOperand s.ident = some buf ∧ labelOperand s.label = .error e ∧
      u = s.raise e) ∨
    (∃ buf label, s.lifeCycle = .ready ∧ identOperand s.ident = some buf ∧ labelOperand s.label = .ok label ∧
      u = { s with
            result := decodeResult Config.digest s.keyring (fpValue s.cache label) buf
            cache := fpFill Config.cacheEntries s.cache label
            err := 0 }) := by
  unfold execDecode at h
  split at h
  · exact .inl ⟨by assumption, by cases h; rfl⟩
  · rename_i hc
    have hr : s.lifeCycle = .ready := by simpa using hc
    split at h
    · exact .inr (.inl ⟨hr, by assumption, by cases h; rfl⟩)
    · split at h
      · exact .inr (.inr (.inl ⟨_, _, hr, by assumption, by assumption, by cases h; rfl⟩))
      · exact .inr (.inr (.inr ⟨_, _, hr, by assumption, by assumption, by cases h; rfl⟩))

/-- A command word is the command it decodes to, or E_ILLEGAL (R85). -/
theorem execWord_cases {w : Word} {s t : State} (h : execWord w s = .next t) :
    (∃ i, decodeWord w = .ok i ∧ exec i s = .next t) ∨ ((∃ e, decodeWord w = .error e) ∧ t = s.raise .illegal) := by
  unfold execWord at h
  split at h
  · exact .inl ⟨_, by assumption, h⟩
  · exact .inr ⟨⟨_, by assumption⟩, by cases h; rfl⟩

theorem step_cases {s t : State} (h : step s = .next t) :
    (s.inputs.host = [] ∧ t = s) ∨
    (∃ rest, s.inputs.host = .reset :: rest ∧ t = (s.withHost rest).applyReset) ∨
    (∃ w rest, s.inputs.host = .command w :: rest ∧ execWord w (s.withHost rest) = .next t) := by
  unfold step at h
  split at h
  · exact .inl ⟨by assumption, by cases h; rfl⟩
  · rename_i x rest hx
    cases x with
    | reset => exact .inr (.inl ⟨rest, hx, by cases h; rfl⟩)
    | command w => exact .inr (.inr ⟨w, rest, hx, h⟩)

end Sys2Proof.Machine
end

