-- ==== Sys2Proof/Laws/PerInstr.lean ====
section
/-! SUPPORT. The family EncodeSelectsRow: the word of a command selects, by mask and match, the row of the opcode map
that carries the command's mnemonic (30_encoding.md R83). The rows stand in Safety.lean, written out from the table of
R83; the encoder does not use them. -/

namespace Sys2Proof.Laws.EncodeSelectsRow

open Sys2Proof.Machine Sys2Proof.Safety

/-- The encoded command selects a row of R83 with the command's mnemonic. -/
def Statement (i : Instr) : Prop := ∃ r ∈ opcodeRows, r.mnemonic = mnemonic i ∧ r.selectedBy (encode i) = true

theorem nop : Statement .nop := ⟨⟨"NOP", 0x00000000, 0xFFFFFFFF⟩, by decide, rfl, by decide⟩

theorem keyrst : Statement .keyrst := ⟨⟨"KEYRST", 0x01000000, 0xFFFFFFFF⟩, by decide, rfl, by decide⟩

theorem keyput (imm8 : Byte) : Statement (.keyput imm8) :=
  ⟨⟨"KEYPUT", 0x02000000, 0xFFFFFF00⟩, by decide, rfl, by revert imm8; decide⟩

theorem keyload (idx : Int) : Statement (.keyload idx) := by
  refine ⟨⟨"KEYLOAD", 0x03000000, 0xFFFFFF00⟩, by decide, rfl, ?_⟩
  simp only [encode]
  generalize BitVec.ofInt 8 idx = low
  revert low
  decide

theorem sealKeyring (sm : SelMode) (fix : BitVec 4) : Statement (.sealKeyring sm fix) :=
  ⟨⟨"SEAL", 0x04000000, 0xFFFFFEF0⟩, by decide, rfl, by cases sm <;> (revert fix; decide)⟩

theorem lblrst : Statement .lblrst := ⟨⟨"LBLRST", 0x08000000, 0xFFFFFFFF⟩, by decide, rfl, by decide⟩

theorem lblput (imm8 : Byte) : Statement (.lblput imm8) :=
  ⟨⟨"LBLPUT", 0x09000000, 0xFFFFFF00⟩, by decide, rfl, by revert imm8; decide⟩

theorem lblnul : Statement .lblnul := ⟨⟨"LBLNUL", 0x0A000000, 0xFFFFFFFF⟩, by decide, rfl, by decide⟩

theorem idrst : Statement .idrst := ⟨⟨"IDRST", 0x0C000000, 0xFFFFFFFF⟩, by decide, rfl, by decide⟩

theorem idput (imm8 : Byte) : Statement (.idput imm8) :=
  ⟨⟨"IDPUT", 0x0D000000, 0xFFFFFF00⟩, by decide, rfl, by revert imm8; decide⟩

theorem idmov : Statement .idmov := ⟨⟨"IDMOV", 0x0E000000, 0xFFFFFFFF⟩, by decide, rfl, by decide⟩

theorem fprint : Statement .fprint := ⟨⟨"FPRINT", 0x10000000, 0xFFFFFFFF⟩, by decide, rfl, by decide⟩

/-- The 1024 words of GENERATE have its fixed bits. -/
theorem generate_fixed_bits :
    ∀ (md : BitVec 2) (tl : Byte), (0x11#8 ++ 0#14 ++ md ++ tl : Word) &&& 0xFFFFFC00 = 0x11000000 := by decide

theorem generate (md : BitVec 2) (tl : Nat) : Statement (.generate md tl) := by
  refine ⟨⟨"GENERATE", 0x11000000, 0xFFFFFC00⟩, by decide, rfl, ?_⟩
  simp only [encode, OpcodeRow.selectedBy, beq_iff_eq]
  exact generate_fixed_bits _ _

theorem decode : Statement .decode := ⟨⟨"DECODE", 0x12000000, 0xFFFFFFFF⟩, by decide, rfl, by decide⟩

end Sys2Proof.Laws.EncodeSelectsRow
end

