-- ==== Sys2Proof/Tests/Slice0.lean ====
section
/-! SUPPORT. Tests on fixed values, and for every statement of Certificates/Slice0/Obligations.lean that has hypotheses
a concrete state and operands that meet them (`witness_<statement>`). Expected values come from the spec: the vectors V<n>
and programs P<n> of 95_test_vectors.md, or the rule named. The digest of the machine is open, so the vectors with tag
bytes are tested on the machine's own functions at `digestTest` (41_digest.md R125). -/

set_option Elab.async false

namespace Sys2Proof.Tests

open Sys2Proof.Machine Sys2Proof.Safety

/-! ### Well-formedness (30_encoding.md R82): each check refuses an ill-formed term -/

theorem test_wellFormed_keyload_below : (Instr.keyload (-129)).wellFormed = false := by decide
theorem test_wellFormed_keyload_above : (Instr.keyload 128).wellFormed = false := by decide
theorem test_wellFormed_generate_above : (Instr.generate 0 256).wellFormed = false := by decide

/-! ### Decoding: words written out from R81 and R83 -/

theorem test_decode_nop : decodeWord 0b00000000000000000000000000000000 = .ok .nop := by decide
theorem test_decode_keyrst : decodeWord 0b00000001000000000000000000000000 = .ok .keyrst := by decide
theorem test_decode_keyput : decodeWord 0b00000010000000000000000001110100 = .ok (.keyput 0x74) := by decide
/-- V17, V17c. -/
theorem test_decode_keyload : decodeWord 0b00000011000000000000000011111111 = .ok (.keyload (-1)) ∧
    decodeWord 0b00000011000000000000000001111111 = .ok (.keyload 127) ∧
    decodeWord 0b00000011000000000000000010000000 = .ok (.keyload (-128)) := by decide
/-- V18, V18b. -/
theorem test_decode_seal : decodeWord 0b00000100000000000000000100000101 = .ok (.sealKeyring .fixed 5) ∧
    decodeWord 0b00000100000000000000000000001111 = .ok (.sealKeyring .random 15) := by decide
theorem test_decode_lblrst : decodeWord 0b00001000000000000000000000000000 = .ok .lblrst := by decide
theorem test_decode_lblput : decodeWord 0b00001001000000000000000001101111 = .ok (.lblput 0x6F) := by decide
theorem test_decode_lblnul : decodeWord 0b00001010000000000000000000000000 = .ok .lblnul := by decide
theorem test_decode_idrst : decodeWord 0b00001100000000000000000000000000 = .ok .idrst := by decide
theorem test_decode_idput : decodeWord 0b00001101000000000000000011000001 = .ok (.idput 0xC1) := by decide
theorem test_decode_idmov : decodeWord 0b00001110000000000000000000000000 = .ok .idmov := by decide
theorem test_decode_fprint : decodeWord 0b00010000000000000000000000000000 = .ok .fprint := by decide
/-- V19, V19c. -/
theorem test_decode_generate : decodeWord 0b00010001000000000000000100000001 = .ok (.generate 1 1) ∧
    decodeWord 0b00010001000000000000001111111111 = .ok (.generate 3 255) := by decide
theorem test_decode_decode : decodeWord 0b00010010000000000000000000000000 = .ok .decode := by decide
/-- The decoder refuses every word of the list. -/
def allIllegal (ws : List Word) : Bool := ws.all fun w => (decodeWord w).toOption.isNone

/-- V20: an `OP` that is not in the map. -/
theorem test_decode_unknown_opcode : allIllegal [0x05000000, 0x06000000, 0x07000000, 0x0B000000, 0x0F000000, 0x13000000,
    0xFF000000] = true := by decide
/-- V20b: a reserved bit set. -/
theorem test_decode_reserved_bit : allIllegal [0x12000001, 0x11000401, 0x04000010, 0x04000200, 0x02000100, 0x00000001,
    0x10800000] = true := by decide
theorem test_decodeTableWord : decodeTableWord 32 0x11000002 = some (.generate 0 2) ∧
    decodeTableWord 32 0x05000000 = none := by decide

/-- R88, R89: how commands are written, and a pseudo-instruction. -/
theorem test_assembly : assembly (.sealKeyring .fixed 5) = "SEAL FIXED, 5" ∧ assembly (.generate 1 2) = "GENERATE TIME_SORTED, 2" ∧
    pseudoKey 5 (asciiBytes "k5") = [.keyrst, .keyput 0x6B, .keyput 0x35, .keyload 5] := by decide +kernel

/-! ### The checksum -/

theorem test_crc_order : crc8 (asciiBytes "order") = 0x01 := by decide +kernel        -- V2
theorem test_crc_check : crc8 (asciiBytes "123456789") = 0xF4 := by decide +kernel    -- V3
theorem test_crc_invoice : crc8 (asciiBytes "invoice") = 0x7E := by decide +kernel        -- V10

/-! ### The codec and the digest, with `digestTest` -/

/-- V13 to V16c. -/
theorem test_infoByte : infoByte 0 1 .timeSorted = 0x03 ∧ infoByte 15 1 .timeSorted = 0xF3 ∧
    infoByte 5 1 .random = 0x52 ∧ infoIndex 0xCA = 12 ∧ infoVersion 0xCA = 5 ∧ infoMode 0xCA = .random := by decide

/-- The secret of the setup S0. -/
def topSecret : List Byte := asciiBytes "topSecret"

/-- A keyring with one secret, in slot 0, and the random policy. -/
def oneKey (secret : List Byte) : Keyring :=
  ⟨(Vector.replicate 16 KeySlot.empty).set 0 ⟨true, secret.length, secret⟩, 1, .random, 0⟩

/-- `INFO`, `TS_HI`, `TS_LO` after DECODE of the bytes under the secret of S0, against a label with this fingerprint. -/
def decodeUnderS0 (fp : Byte) (bytes : List Byte) : Word × Word × Word :=
  let r := decodeResult digestTest (oneKey topSecret) fp (Vector.ofFn fun i : Fin 16 => bytes.getD i.val 0)
  let s := { State.reset with result := r }
  (regRead s 0x24, regRead s 0x2C, regRead s 0x28)

/-- The random bytes of the vectors in mode TIME_SORTED. -/
def draws : List Byte := [0x11, 0x22, 0x33, 0x44, 0x55, 0x66, 0x77]

theorem test_V30 : (composeIdent digestTest topSecret .timeSorted .one 0x018BCFE56800 draws 0x01 0).toList =
    [0x01, 0x8B, 0xCF, 0xE5, 0x68, 0x00, 0x11, 0x22, 0x33, 0x44, 0x55, 0x66, 0x77, 0x01, 0x03, 0x40] := by
  decide +kernel
theorem test_V31 : (composeIdent digestTest topSecret .timeSorted .two 0x018BCFE56800 (draws.take 6) 0x01 0).toList =
    [0x01, 0x8B, 0xCF, 0xE5, 0x68, 0x00, 0x11, 0x22, 0x33, 0x44, 0x55, 0x66, 0x01, 0x03, 0xCA, 0xE1] := by
  decide +kernel
/-- `D` of V31 (41_digest.md R123). -/
theorem test_V31_tag : tagOf digestTest topSecret (prefixBytes .timeSorted 0x018BCFE56800 (draws.take 6) 0x01 0) .two =
    [0xCA, 0xE0] := by decide +kernel
theorem test_V33 : (composeIdent digestTest topSecret .random .two 0
      [0xA0, 0xA1, 0xA2, 0xA3, 0xA4, 0xA5, 0xA6, 0xA7, 0xA8, 0xA9, 0xAA, 0xAB] 0x01 0).toList =
    [0xA0, 0xA1, 0xA2, 0xA3, 0xA4, 0xA5, 0xA6, 0xA7, 0xA8, 0xA9, 0xAA, 0xAB, 0x01, 0x02, 0x7E, 0x5F] := by
  decide +kernel
/-- V48: the empty secret and the empty label. -/
theorem test_V48 : (composeIdent digestTest [] .random .one 0 (List.replicate 13 0) (crc8 []) 3).toList =
    List.replicate 14 0 ++ [0x32, 0x32] := by decide +kernel
theorem test_V30_decoded : decodeUnderS0 0x01 [0x01, 0x8B, 0xCF, 0xE5, 0x68, 0x00, 0x11, 0x22, 0x33, 0x44, 0x55, 0x66,
    0x77, 0x01, 0x03, 0x40] = (0x0000000F, 0x0000018B, 0xCFE56800) := by decide +kernel
theorem test_V33_decoded : decodeUnderS0 0x01 [0xA0, 0xA1, 0xA2, 0xA3, 0xA4, 0xA5, 0xA6, 0xA7, 0xA8, 0xA9, 0xAA, 0xAB,
    0x01, 0x02, 0x7E, 0x5F] = (0x0000040B, 0, 0) := by decide +kernel
/-- V34: another label. -/
theorem test_V34 : (decodeUnderS0 0x4B [0x01, 0x8B, 0xCF, 0xE5, 0x68, 0x00, 0x11, 0x22, 0x33, 0x44, 0x55, 0x66, 0x77, 0x01,
    0x03, 0x40]).1 = 0x0000000D := by decide +kernel
/-- V36: an effective tag bit of a two-byte tag. -/
theorem test_V36 : (decodeUnderS0 0x01 [0x01, 0x8B, 0xCF, 0xE5, 0x68, 0x00, 0x11, 0x22, 0x33, 0x44, 0x55, 0x66, 0x01, 0x03,
    0xCB, 0xE1]).1 = 0x0000040E := by decide +kernel
/-- V37: version 3. -/
theorem test_V37 : (decodeUnderS0 0x01 [0x01, 0x8B, 0xCF, 0xE5, 0x68, 0x00, 0x11, 0x22, 0x33, 0x44, 0x55, 0x66, 0x77, 0x01,
    0x07, 0x40]).1 = 0x0000001E := by decide +kernel
/-- V38: an index that is not configured. -/
theorem test_V38 : (decodeUnderS0 0x01 [0x01, 0x8B, 0xCF, 0xE5, 0x68, 0x00, 0x11, 0x22, 0x33, 0x44, 0x55, 0x66, 0x77, 0x01,
    0x13, 0x40]).1 = 0x0000004E := by decide +kernel
/-- V39: the footer flag of V30 flipped. -/
theorem test_V39 : decodeUnderS0 0x01 [0x01, 0x8B, 0xCF, 0xE5, 0x68, 0x00, 0x11, 0x22, 0x33, 0x44, 0x55, 0x66, 0x77, 0x01,
    0x03, 0x41] = (0x00000404, 0x0000018B, 0xCFE56800) := by decide +kernel
/-- V39b: the footer flag of V31 flipped. -/
theorem test_V39b : decodeUnderS0 0x01 [0x01, 0x8B, 0xCF, 0xE5, 0x68, 0x00, 0x11, 0x22, 0x33, 0x44, 0x55, 0x66, 0x01, 0x03,
    0xCA, 0xE0] = (0x00000328, 0, 0) := by decide +kernel
/-- V41: a false accept. -/
theorem test_V41 : (decodeUnderS0 0x01 [0x01, 0x8B, 0xCF, 0xE5, 0x68, 0x00, 0x10, 0x22, 0x33, 0x44, 0x55, 0x66, 0x77, 0x01,
    0x03, 0x40]).1 = 0x0000000F := by decide +kernel

/-! ### Single steps -/

/-- A READY block with the one-byte secret `k` in slot 0, the label "a", a complete identifier of zeros, and the values
the three ports deliver next. -/
def ready : State :=
  { State.reset with
    lifeCycle := .ready
    keyring := oneKey [0x6B]
    label := ⟨true, 1, [0x61]⟩
    ident := ⟨Vector.replicate 16 0, 16⟩
    inputs :=
      { Inputs.none with
        time := [0x0001018BCFE56800], random := [0x11, 0x22, 0x33, 0x44, 0x55, 0x66, 0x77, 0x88], selector := [0] } }

/-- A block after a configuration error. -/
def failed : State := { State.reset with lifeCycle := .cfgErr, faults := 0x00000010 }

/-- The state a step leads to; `s` itself where it stops. -/
def after (o : Host.Outcome State Fault Refusal) (s : State) : State :=
  match o with
  | .next t => t
  | _ => s

/-- `STATUS`, `ERR`, `FAULTS`, `KRINFO` after the command. -/
def regsAfter (i : Instr) (s : State) : List Word :=
  [0x00, 0x04, 0x08, 0x0C].map (regRead (after (exec i s) s))

/-- V23, V24, V25: an index out of range; an empty keyring. -/
theorem test_keyload_out_of_range :
    regsAfter (.keyload (-1)) State.reset = [2, 4, 0x00000010, 0] ∧
    regsAfter (.keyload 16) State.reset = [2, 4, 0x00000010, 0] := by decide +kernel
theorem test_seal_empty : regsAfter (.sealKeyring .random 0) State.reset = [2, 3, 0x00000008, 0] := by decide +kernel
/-- V26, V26b: a slot loaded twice; a fixed index that is not configured. -/
theorem test_keyload_twice :
    regsAfter (.keyload 3) (after (exec (.keyload 3) State.reset) State.reset) = [2, 5, 0x00000020, 0x00010008] := by
  decide +kernel
theorem test_seal_unconfigured :
    regsAfter (.sealKeyring .fixed 4) (after (exec (.keyload 3) State.reset) State.reset) =
      [2, 7, 0x00000080, 0x00010008] := by decide +kernel
/-- V26c: the fixed policy. -/
theorem test_seal_fixed :
    regsAfter (.sealKeyring .fixed 0) { State.reset with keyring := oneKey topSecret } = [5, 0, 0, 0x01010001] := by
  decide +kernel
/-- V26f: the keyring is immutable in READY. -/
theorem test_keyrst_in_ready :
    regsAfter .keyrst { State.reset with lifeCycle := .ready } = [1, 2, 0x00000004, 0] := by decide +kernel
/-- R136's example. -/
theorem test_keyput : (after (exec (.keyput 0x74) State.reset) State.reset).staging = ⟨[0x74], 1⟩ := by decide +kernel
/-- R137: the secret that was staged, and the emptied buffer. -/
theorem test_keyload : (after (exec (.keyload 5) { State.reset with staging := ⟨[0x6B, 0x35, 0xFF], 2⟩ })
      State.reset).keyring.lookup 5 = some [0x6B, 0x35] := by decide +kernel
/-- V44: the 255th byte is kept, the 256th and any further one is not. -/
theorem test_lblput_overlength :
    (after (exec (.lblput 0x41) { State.reset with label := ⟨true, 254, []⟩ }) State.reset).label.len = 255 ∧
    (after (exec (.lblput 0x41) { State.reset with label := ⟨true, 255, []⟩ }) State.reset).label.len = 256 ∧
    (after (exec (.lblput 0x41) { State.reset with label := ⟨true, 256, []⟩ }) State.reset).label.len = 256 := by
  decide +kernel
/-- R161: LBLPUT on an absent label starts a new one. -/
theorem test_lblput_absent :
    (after (exec (.lblput 0x41) { State.reset with label := ⟨false, 0, [0x61, 0x62]⟩ }) State.reset).label =
      ⟨true, 1, [0x41, 0x62]⟩ := by decide +kernel
/-- R160, R162: LBLNUL then FPRINT raises E_NULL_LABEL. -/
theorem test_lblrst_lblnul : regsAfter .lblrst State.reset = [0x0000000C, 0, 0, 0] ∧
    regsAfter .fprint (after (exec .lblnul ready) ready) = [0x00020001, 8, 0x00000100, 0x00010001] := by decide +kernel
/-- R163's example. -/
theorem test_fprint : regRead (after (exec .fprint { State.reset with label := ⟨true, 5, asciiBytes "order"⟩ })
    State.reset) 0x20 = 0x01 := by decide +kernel
/-- R172: the sixteenth byte makes the operand present, the seventeenth makes it malformed. -/
theorem test_idput :
    (after (exec (.idput 0x0F) { ready with ident := ⟨Vector.replicate 16 0, 15⟩ }) ready).ident.cnt = 16 ∧
    (after (exec (.idput 0x0F) ready) ready).ident.cnt = 17 := by decide +kernel
/-- R171, R173. -/
theorem test_idrst_idmov : (after (exec .idrst ready) ready).ident.cnt = 0 ∧
    identOperand (after (exec .idmov { State.reset with idOut := Vector.replicate 16 7 }) State.reset).ident =
      some (Vector.replicate 16 7) := by decide +kernel
/-- V42c, V42e, V42f: E_MODE before E_TAGLEN. -/
theorem test_generate_errors : regsAfter (.generate 3 3) ready = [0x00020019, 10, 0x00000400, 0x00010001] ∧
    regsAfter (.generate 0 3) ready = [0x00020019, 11, 0x00000800, 0x00010001] ∧
    regsAfter (.generate 0 0) ready = [0x00020019, 11, 0x00000800, 0x00010001] := by decide +kernel
/-- R175: everything before the tag, with the time sample reduced modulo 2^48 (`CRC8("a") = 0x20`, V4). -/
theorem test_generate : (after (exec (.generate 1 1) ready) ready).idOut.toList.take 15 =
    [0x01, 0x8B, 0xCF, 0xE5, 0x68, 0x00, 0x11, 0x22, 0x33, 0x44, 0x55, 0x66, 0x77, 0x20, 0x03] := by decide +kernel
/-- V43d, V43e: the identifier before the label. -/
theorem test_decode_errors : regsAfter .decode { ready with ident := ⟨Vector.replicate 16 0, 0⟩, label := ⟨false, 0, []⟩ } =
      [1, 12, 0x00001000, 0x00010001] ∧
    regsAfter .decode { ready with label := ⟨false, 0, []⟩ } = [0x00020001, 8, 0x00000100, 0x00010001] := by
  decide +kernel
/-- V40: sixteen zero bytes: version 0, so the digest does not decide. -/
theorem test_decode_zeros : regRead (after (exec .decode { ready with label := ⟨true, 0, []⟩ }) ready) 0x24 = 0x00000002 := by
  rfl
/-- R170: NOP in CFGERR. -/
theorem test_nop : regsAfter .nop { failed with err := 4 } = [6, 0, 0x00000010, 0] := by decide +kernel
/-- V42i, R85: an illegal word in CFGERR. -/
theorem test_illegal : (after (execWord 0x11000401 failed) failed).err = 1 := by decide +kernel
/-- R223: the first command after reset runs as the first word the host writes. -/
theorem test_step_from_reset : regRead (after (step (State.reset.withFetchWord 32 0x03000007)) State.reset) 0x0C =
    0x00010080 := by decide +kernel
theorem test_reset_status : regRead State.reset 0x00 = 0x00000004 := by decide +kernel

/-! ### Witnesses: the hypotheses of each statement, met by concrete states and operands -/

/-- The block is READY and its label is legal. -/
theorem ready_label : ready.lifeCycle = .ready ∧ labelOperand ready.label = .ok [0x61] := ⟨rfl, by decide +kernel⟩

/-- The READY block of the tests satisfies the machine's invariant, for every value of the parameters. -/
theorem ready_inv : Inv ready where
  keyring := by refine ⟨?_, ?_⟩ <;> decide +kernel
  secrets := by
    refine ⟨fun i => ?_, Nat.zero_le _, Nat.zero_le _⟩
    have h : (ready.keyring.slots.get i).len ≤ 1 ∧ (ready.keyring.slots.get i).data.length ≤ 1 := by
      revert i; decide +kernel
    have hs : 1 ≤ Config.secretMax := Nat.le_add_left 1 _
    omega
  selector := by refine ⟨?_, ?_, ?_⟩ <;> decide +kernel
  operands := by refine ⟨?_, ?_, ?_, ?_⟩ <;> decide +kernel
  cache := by refine ⟨?_, ?_⟩ <;> decide +kernel
  cacheSize := ⟨Nat.zero_le _, by decide +kernel⟩
  errors := by refine ⟨?_, ?_, ?_, ?_⟩ <;> decide +kernel
  result := by refine ⟨?_, ?_⟩ <;> decide +kernel

/-- The state with these inputs of the host waiting. -/
def hostSends (s : State) (xs : List HostInput) : State := s.withHost xs

theorem witness_DecodeOfEncodeIsTheCommand : (Instr.keyload (-128)).wellFormed = true ∧
    (Instr.keyload 127).wellFormed = true ∧ (Instr.generate 3 255).wellFormed = true ∧
    (Instr.sealKeyring .random 15).wellFormed = true := by decide
theorem witness_EncodeOfDecodeIsTheWord : decodeWord 0x04000105 = .ok (.sealKeyring .fixed 5) := by decide
theorem witness_DecoderFollowsTheOpcodeMap : (⟨"SEAL", 0x04000000, 0xFFFFFEF0⟩ : OpcodeRow) ∈ opcodeRows ∧
    OpcodeRow.selectedBy ⟨"SEAL", 0x04000000, 0xFFFFFEF0⟩ 0x0400010F = true ∧
    decodeWord 0x0400010F = .ok (.sealKeyring .fixed 15) := by decide
theorem witness_WorkedEncodingsDecode : ready.lifeCycle = .ready ∧ labelOperand ready.label = .ok [0x61] := ready_label
theorem witness_IllegalWordRaisesIllegal : opcodeRows.all (fun r => !r.selectedBy 0x12000001) = true := by decide
theorem witness_StepRunsTheDecodedCommand :
    (hostSends ready [.command 0x10000000]).inputs.host = [.command 0x10000000] ∧
    decodeWord 0x10000000 = .ok .fprint ∧ decodeTableWord 32 0x10000000 = some .fprint := by decide +kernel
theorem witness_ResetGivesTheResetValues : (hostSends ready [.reset]).inputs.host = [.reset] ∧
    ready.inputs.host = [] := by decide +kernel
theorem witness_ErrorEntryIsPrecise : ∃ t, execWord 0x12000001 ready = .next t ∧ t.err ≠ 0 :=
  ⟨_, rfl, by decide⟩
theorem witness_FaultsAreSticky :
    (∃ t, execWord 0x10000000 ready = .next t ∧ t.err = 0) ∧
    (∃ t, execWord 0x01000000 ready = .next t ∧ t.err ≠ 0) ∧
    (∃ t, execWords [0x01000000, 0x00000000] failed = .next t ∧ failed.faults.getLsbD 4 = true) :=
  ⟨⟨_, rfl, rfl⟩, ⟨_, rfl, by decide⟩, ⟨_, rfl, by decide⟩⟩
theorem witness_NoFaultsMeansEveryCommandCompleted :
    ∃ t, execWords [0x10000000, 0x12000000] ready = .next t ∧ NoErrorYet t := ⟨_, rfl, rfl⟩
theorem witness_LegalityTableDecidesStateErrors : legalIn .keyrst ready.lifeCycle = false ∧
    legalIn .fprint failed.lifeCycle = false ∧ legalIn .decode State.reset.lifeCycle = false ∧
    (legalIn .fprint ready.lifeCycle = true ∧ ∃ t, exec .fprint ready = .next t) :=
  ⟨rfl, rfl, rfl, rfl, _, rfl⟩
theorem witness_ConfigurationErrorsAreFinal :
    (∃ t, execWord 0x030000FF State.reset = .next t ∧ 3 ≤ t.err.toNat ∧ t.err.toNat ≤ 7) ∧
    (failed.lifeCycle = .cfgErr ∧ Instr.decode ≠ .nop) ∧
    (∃ t, execWords [0x12000000, 0x00000000] failed = .next t) :=
  ⟨⟨_, rfl, by decide, by decide⟩, ⟨rfl, by decide⟩, ⟨_, rfl⟩⟩
theorem witness_OtherErrorsKeepTheLifeCycle :
    (∃ t, execWord 0x05000000 ready = .next t ∧ t.err.toNat = 1) ∧
    (∃ t, execWord 0x01000000 ready = .next t ∧ t.err.toNat = 2) ∧
    (∃ t, execWord 0x11000003 ready = .next t ∧ t.err.toNat = 11) :=
  ⟨⟨_, rfl, rfl⟩, ⟨_, rfl, rfl⟩, ⟨_, rfl, rfl⟩⟩
theorem witness_LifeCycleChangesOnlyBySealErrorOrReset :
    (∃ t, step (hostSends ready [.reset]) = .next t ∧ t.lifeCycle ≠ ready.lifeCycle) ∧
    (∃ t, step (hostSends { State.reset with keyring := oneKey [] } [.command 0x04000000]) = .next t ∧
      t.lifeCycle = .ready) ∧
    (∃ t, step (hostSends State.reset [.command 0x04000000]) = .next t ∧ t.lifeCycle = .cfgErr) :=
  ⟨⟨_, rfl, by decide⟩, ⟨_, rfl, rfl⟩, ⟨_, rfl, rfl⟩⟩
theorem witness_KeyringIsImmutableOutsideConfig : ready.lifeCycle ≠ .config ∧
    ∃ t, execWords [0x03000001, 0x10000000] ready = .next t := ⟨by decide, _, rfl⟩
theorem witness_CommandsWriteOnlyTheirRow :
    (∃ t, exec .fprint ready = .next t ∧ t.err = 0) ∧ (∃ t, exec (.generate 1 1) ready = .next t ∧ t.err = 0) ∧
    (∃ t, exec (.keyload 3) State.reset = .next t ∧ t.err = 0) :=
  ⟨⟨_, rfl, rfl⟩, ⟨_, rfl, rfl⟩, ⟨_, rfl, rfl⟩⟩
theorem witness_KeyrstEmptiesTheStagingBuffer : State.reset.lifeCycle = .config ∧ ready.lifeCycle ≠ .config := by
  decide
theorem witness_KeyputAppendsOrRaisesKeyLen : ready.lifeCycle ≠ .config ∧ State.reset.lifeCycle = .config ∧
    ({ State.reset with staging := ⟨[], Config.secretMax⟩ } : State).staging.len = Config.secretMax ∧
    State.reset.staging.len < Config.secretMax := ⟨by decide, rfl, rfl, Nat.succ_pos _⟩
/-- A full keyring, in CONFIG. -/
def allLoaded : State :=
  { State.reset with keyring := ⟨Vector.replicate 16 ⟨true, 0, []⟩, 16, .random, 0⟩ }
theorem witness_KeyloadCommitsTheStagedSecret :
    (ready.lifeCycle ≠ .config ∧ State.reset.lifeCycle = .config ∧ allLoaded.lifeCycle = .config) ∧
    allLoaded.keyring.count = 16 ∧ State.reset.keyring.count ≠ 16 ∧ ((-1 : Int) < 0 ∧ (15 : Int) < 16) ∧
    (oneKey []).valid 0 = true ∧ (oneKey []).count ≠ 16 ∧
    State.reset.keyring.valid 0 = false ∧ State.reset.keyring.valid 15 = false := by decide +kernel
theorem witness_SealValidatesAndFixesThePolicy : State.reset.lifeCycle = .config ∧ ready.lifeCycle ≠ .config ∧
    State.reset.keyring.count = 0 ∧ (oneKey []).count ≠ 0 ∧ (oneKey []).valid (slotOf 15) = false ∧
    (oneKey []).valid (slotOf 0) = true := by decide +kernel
theorem witness_KeySequenceLoadsTheSecret : State.reset.lifeCycle = .config ∧
    (([] : List Byte).length ≤ Config.secretMax ∧ ([0x6B] : List Byte).length ≤ Config.secretMax) ∧
    State.reset.keyring.count ≠ 16 ∧ State.reset.keyring.valid 15 = false ∧
    Config.secretMax < (List.replicate (Config.secretMax + 1) (0 : Byte)).length :=
  ⟨rfl, ⟨Nat.zero_le _, Nat.le_add_left 1 _⟩, by decide, by decide +kernel, by simp⟩
theorem witness_KeyringConstructionIsValidated : ([15] : List (Fin 16)) ≠ [] ∧ ([15] : List (Fin 16)).Nodup ∧
    (List.finRange 16).length = 16 ∧ (List.finRange 16).Nodup ∧ (-1 : Int) < 0 ∧ (15 : Int) < 16 := by decide +kernel
theorem witness_SelectReturnsAConfiguredIndex :
    ((oneKey []).valid 0 = true ∧ ((oneKey []).selMode = .fixed → (oneKey []).valid (slotOf (oneKey []).selFix) = true) ∧
      (oneKey []).selMode = .random) ∧
    (((oneKey []).setSelector .fixed 0).valid 0 = true ∧ ((oneKey []).setSelector .fixed 0).selMode = .fixed ∧
      ((oneKey []).setSelector .fixed 0).valid (slotOf ((oneKey []).setSelector .fixed 0).selFix) = true) := by
  decide +kernel
theorem witness_LblrstStartsAndLblnulWithdraws : ready.lifeCycle ≠ .cfgErr ∧ failed.lifeCycle = .cfgErr := by decide
theorem witness_LblputAppendsStartsOrMarksOverlength :
    failed.lifeCycle = .cfgErr ∧ ready.lifeCycle ≠ .cfgErr ∧
    labelOperand ⟨true, 254, []⟩ = .ok (List.replicate 254 0) ∧ (List.replicate 254 (0 : Byte)).length < 255 ∧
    (⟨false, 0, []⟩ : LabelBuffer).present = false ∧ (⟨true, 255, []⟩ : LabelBuffer).present = true ∧
    255 ≤ (⟨true, 255, []⟩ : LabelBuffer).len ∧ 255 ≤ (⟨true, 256, []⟩ : LabelBuffer).len :=
  ⟨rfl, by decide, rfl, by rw [List.length_replicate]; decide, rfl, rfl, by decide, by decide⟩
theorem witness_LabelSequenceLoadsTheLabel : ready.lifeCycle ≠ .cfgErr ∧
    (List.replicate 255 (0 : Byte)).length ≤ 255 ∧ 255 < (List.replicate 256 (0 : Byte)).length :=
  ⟨by decide, by rw [List.length_replicate], by rw [List.length_replicate]; decide⟩
theorem witness_LabelPreconditionsAreChecked : State.reset.label.present = false ∧ ready.lifeCycle = .ready ∧
    ready.lifeCycle ≠ .cfgErr ∧ ready.ident.cnt = 16 ∧ (⟨true, 256, []⟩ : LabelBuffer).present = true ∧
    255 < (⟨true, 256, []⟩ : LabelBuffer).len ∧ (⟨true, 255, []⟩ : LabelBuffer).len ≤ 255 := by decide
theorem witness_FprintReportsTheChecksum :
    failed.lifeCycle = .cfgErr ∧ ready.lifeCycle ≠ .cfgErr ∧ State.reset.label.present = false ∧
    (⟨true, 256, []⟩ : LabelBuffer).present = true ∧ 255 < (⟨true, 256, []⟩ : LabelBuffer).len ∧
    labelOperand ready.label = .ok [0x61] ∧ CacheConsistent ready.cache ∧
    (CacheConsistent [⟨[0x61], 0x20⟩] ∧ ∃ e ∈ [(⟨[0x61], 0x20⟩ : CacheEntry)], e.label = [0x61]) ∧
    (∀ e ∈ ready.cache, e.label ≠ [0x61]) :=
  ⟨rfl, by decide, rfl, rfl, by decide, ready_label.2, ready_inv.cache,
    ⟨⟨by decide +kernel, by decide⟩, _, List.mem_singleton.2 rfl, rfl⟩, by decide⟩
theorem witness_CrcHasTheListedProperties : ([0x01, 0x00] : List Byte).length = ([0x07, 0xFF] : List Byte).length := rfl
theorem witness_CacheInvariantIsPreserved : CacheConsistent ready.cache ∧ ∃ t, execWord 0x10000000 ready = .next t :=
  ⟨ready_inv.cache, _, rfl⟩
theorem witness_CacheIsTransparentAndAppendOnly : CacheConsistent ready.cache ∧ CacheConsistent [⟨[0x61], 0x20⟩] ∧
    ∃ t, execWords [0x10000000, 0x12000000] ready = .next t :=
  ⟨ready_inv.cache, ⟨by decide +kernel, by decide⟩, _, rfl⟩
theorem witness_NopIdrstIdmovEffects : ready.lifeCycle ≠ .cfgErr ∧ failed.lifeCycle = .cfgErr := by decide
theorem witness_IdputStoresOrMarksMalformed : failed.lifeCycle = .cfgErr ∧ ready.lifeCycle ≠ .cfgErr ∧
    (⟨Vector.replicate 16 0, 15⟩ : IdBuffer).cnt < 16 ∧ 16 ≤ ready.ident.cnt ∧
    16 ≤ (⟨Vector.replicate 16 0, 17⟩ : IdBuffer).cnt := by decide
theorem witness_IdentSequenceLoadsTheIdentifier : ready.lifeCycle ≠ .cfgErr ∧
    List.replicate 16 (0 : Byte) = (Vector.replicate 16 0 : Ident).toList ∧
    (List.replicate 15 (0 : Byte)).length ≠ 16 ∧ (List.replicate 17 (0 : Byte)).length ≠ 16 := by decide +kernel
theorem witness_UnpackRecoversThePackedFields :
    (draws.length = randomCount .timeSorted .one ∧ tagBytes .one ≤ ([0x41] : List Byte).length) ∧
    ((List.replicate 12 (0 : Byte)).length = randomCount .random .two ∧
      tagBytes .two ≤ ([0x41, 0x97] : List Byte).length) := by decide
theorem witness_TimeSortedIdentifiersSortByTime : draws.length = randomCount .timeSorted .one ∧
    (draws.take 6).length = randomCount .timeSorted .two ∧ (0 : BitVec 48).toNat < (1 : BitVec 48).toNat := by decide
theorem witness_FlippedFooterFlagShiftsTheLayout :
    (draws.length = randomCount .timeSorted .one ∧ 1 ≤ ([0x41] : List Byte).length ∧
      (Vector.ofFn fun i : Fin 16 => (prefixBytes .timeSorted 0 draws 1 0 ++ [withFlag 0x41 true]).getD i.val 0).toList =
        prefixBytes .timeSorted 0 draws 1 0 ++ [withFlag 0x41 true]) ∧
    ((draws.take 6).length = randomCount .timeSorted .two ∧ 2 ≤ ([0x41, 0x97] : List Byte).length ∧
      (Vector.ofFn fun i : Fin 16 =>
          (prefixBytes .timeSorted 0 (draws.take 6) 1 0 ++ [0x41, withFlag 0x97 false]).getD i.val 0).toList =
        prefixBytes .timeSorted 0 (draws.take 6) 1 0 ++ [0x41, withFlag 0x97 false]) := by decide +kernel
/-- V30 and V35: an effective tag bit flipped; and the same for a two-byte tag (V31, V36). -/
theorem witness_ChangedTagBitsAreRejected :
    let v30 := composeIdent digestTest topSecret .timeSorted .one 0x018BCFE56800 draws 0x01 0
    let v31 := composeIdent digestTest topSecret .timeSorted .two 0x018BCFE56800 (draws.take 6) 0x01 0
    (tagOk digestTest v30 .one topSecret = true ∧ signedBytes (v30.set 15 0xC0) .one = signedBytes v30 .one ∧
      bufFlag (v30.set 15 0xC0) = bufFlag v30 ∧ v30.set 15 0xC0 ≠ v30) ∧
    (tagOk digestTest v31 .two topSecret = true ∧ signedBytes (v31.set 14 0xCB) .two = signedBytes v31 .two ∧
      bufFlag (v31.set 14 0xCB) = bufFlag v31 ∧ v31.set 14 0xCB ≠ v31) := by decide +kernel
theorem witness_GenerateLaysOutTheIdentifier : ready.lifeCycle = .ready ∧ labelOperand ready.label = .ok [0x61] ∧
    CacheConsistent ready.cache ∧ ready.keyring.select ready.inputs.selectorValue = some 0 :=
  ⟨rfl, ready_label.2, ready_inv.cache, rfl⟩
theorem witness_GenerateReadsThePortsAsStated :
    (∃ u, exec (.generate ((modeBit .timeSorted).setWidth 2) (tagBytes .one)) ready = .next u ∧ u.err = 0) ∧
    (∃ u, exec (.generate ((modeBit .random).setWidth 2) (tagBytes .two)) ready = .next u ∧ u.err = 0) :=
  ⟨⟨_, rfl, rfl⟩, ⟨_, rfl, rfl⟩⟩
theorem witness_GenerateErrorsComeInOrder : ready.lifeCycle = .ready ∧ labelOperand ready.label = .ok [0x61] ∧
    2 ≤ (2 : BitVec 2).toNat ∧ 2 ≤ (3 : BitVec 2).toNat ∧ (1 : BitVec 2).toNat < 2 ∧ ((0 : Nat) ≠ 1 ∧ (0 : Nat) ≠ 2) ∧
    ((3 : Nat) ≠ 1 ∧ (3 : Nat) ≠ 2) := ⟨rfl, ready_label.2, by decide⟩
theorem witness_DecodeReportsTheBitFields : ready.lifeCycle = .ready ∧ ready.ident.cnt = 16 ∧
    labelOperand ready.label = .ok [0x61] ∧ CacheConsistent ready.cache := ⟨rfl, rfl, ready_label.2, ready_inv.cache⟩
theorem witness_DecodeWithoutIdentifierRaisesNullId : ready.lifeCycle = .ready ∧
    (⟨Vector.replicate 16 0, 15⟩ : IdBuffer).cnt ≠ 16 ∧ (⟨Vector.replicate 16 0, 17⟩ : IdBuffer).cnt ≠ 16 := by decide
theorem witness_DecodeIsRepeatable : ∃ u, exec .decode ready = .next u ∧ u.err = 0 := ⟨_, rfl, rfl⟩
theorem witness_GenerateThenDecodeRoundTrips : Inv ready ∧ ready.lifeCycle = .ready ∧
    labelOperand ready.label = .ok [0x61] := ⟨ready_inv, ready_label⟩
theorem witness_OtherLabelMatchesByChecksumOnly : Inv ready ∧ ready.lifeCycle = .ready ∧
    labelOperand ready.label = .ok [0x61] ∧ labelOperand ⟨true, 0, []⟩ = .ok [] :=
  ⟨ready_inv, rfl, ready_label.2, by decide⟩
/-- Flipping bit 7 of the last byte keeps the bytes before the tag and the footer flag. -/
theorem flipped_tag_bit (id : Ident) (t : TagLen) :
    id.set 15 (id[15] ^^^ 0x80) ≠ id ∧ signedBytes (id.set 15 (id[15] ^^^ 0x80)) t = signedBytes id t ∧
      bufFlag (id.set 15 (id[15] ^^^ 0x80)) = bufFlag id := by
  have hx : ∀ x : Byte, x ^^^ 0x80 ≠ x ∧ (x ^^^ 0x80).getLsbD 0 = x.getLsbD 0 := by decide
  refine ⟨fun h => ?_, ?_, ?_⟩
  · have h15 := congrArg (fun v : Ident => v[15]) h
    simp only [Vector.getElem_set_self] at h15
    exact (hx _).1 h15
  · cases t <;> simp [signedBytes, offTag, tagBytes, Vector.toList_set, List.take_set_of_le]
  · simp [bufFlag, bufByte, Vector.toList_set]
theorem witness_AlteredIdentifiersAreReportedInvalid :
    (ready.lifeCycle = .ready ∧ labelOperand ready.label = .ok [0x61] ∧
      ∃ u id, exec (.generate ((modeBit .random).setWidth 2) (tagBytes .one)) ready = .next u ∧ id ≠ u.idOut ∧
        signedBytes id .one = signedBytes u.idOut .one ∧ bufFlag id = bufFlag u.idOut) ∧
    ((unpack (Vector.replicate 16 0)).ver ≠ 1 ∧
      ready.keyring.valid (slotOf (unpack (Vector.replicate 16 0x12)).idx) = false) :=
  ⟨⟨rfl, ready_label.2, _, _, rfl, flipped_tag_bit _ _⟩, by decide +kernel⟩
theorem witness_RegistersShowTheirFields : ready.label.len ≤ 256 ∧ ready.ident.cnt ≤ 17 ∧ ready.keyring.count ≤ 16 := by
  decide
theorem witness_UnmappedReadsReturnZero : (¬ ∃ k : Nat, k < 12 ∧ (0x30 : Word) = BitVec.ofNat 32 (4 * k)) ∧
    (¬ ∃ k : Nat, k < 12 ∧ (0x01 : Word) = BitVec.ofNat 32 (4 * k)) := by decide
theorem witness_SecretsStayHiddenWithoutGenerateAndDecode :
    SameButSecrets ready { ready with keyring := oneKey [0x41, 0x42] } ∧
    (showsSecret 0x10000000 = false ∧ showsSecret 0x03000001 = false) ∧
    ∃ t, execWords [0x10000000, 0x03000001] ready = .next t :=
  ⟨⟨by decide +kernel, rfl, rfl, rfl, rfl, rfl⟩, by decide, _, rfl⟩
theorem witness_KeyCountIsTheNumberOfConfiguredIndices : KeyringCounted ready ∧ ready.lifeCycle = .ready ∧
    ∃ t, execWord 0x10000000 ready = .next t := ⟨ready_inv.keyring, rfl, _, rfl⟩
theorem witness_EveryStepKeepsInv : Inv ready ∧ ∃ t, step ready = .next t := ⟨ready_inv, _, rfl⟩
theorem witness_EveryStepCompletes : Inv ready := ready_inv

end Sys2Proof.Tests
end

section
/-! What one command word can do, over all commands at once: it raises an error (60_exceptions.md R200), or it completes
and writes what its own rule says. Every invariant below is proved by this case split. -/

namespace Sys2Proof.Machine

/-- The next state of a command that completes, with the checks it passed on the way. -/
inductive Completes : Instr → State → State → Prop
  | nop (s : State) : Completes .nop s s.done
  | keyrst {s : State} (hc : s.lifeCycle = .config) :
      Completes .keyrst s { s with staging := s.staging.clear, err := 0 }
  | keyput {s : State} {b : Byte} (hc : s.lifeCycle = .config) (hl : s.staging.len ≠ Config.secretMax) :
      Completes (.keyput b) s { s with staging := s.staging.put b, err := 0 }
  | keyload {s : State} {idx : Int} {i : Fin 16} (hc : s.lifeCycle = .config) (hn : s.keyring.count ≠ 16)
      (hi : keyIndex idx = some i) (hv : s.keyring.valid i = false) :
      Completes (.keyload idx) s
        { s with keyring := s.keyring.load i s.staging.secret, staging := s.staging.clear, err := 0 }
  | sealKeyring {s : State} {sm : SelMode} {fix : BitVec 4} (hc : s.lifeCycle = .config) (hn : s.keyring.count ≠ 0)
      (hf : ¬ (sm = .fixed ∧ s.keyring.valid (slotOf fix) = false)) :
      Completes (.sealKeyring sm fix) s
        { s with keyring := s.keyring.setSelector sm fix, staging := s.staging.clear, lifeCycle := .ready, err := 0 }
  | lblrst {s : State} (hc : s.lifeCycle ≠ .cfgErr) : Completes .lblrst s { s with label := s.label.start, err := 0 }
  | lblput {s : State} {b : Byte} (hc : s.lifeCycle ≠ .cfgErr) :
      Completes (.lblput b) s { s with label := s.label.put b, err := 0 }
  | lblnul {s : State} (hc : s.lifeCycle ≠ .cfgErr) : Completes .lblnul s { s with label := s.label.drop, err := 0 }
  | idrst {s : State} (hc : s.lifeCycle ≠ .cfgErr) : Completes .idrst s { s with ident := s.ident.clear, err := 0 }
  | idput {s : State} {b : Byte} (hc : s.lifeCycle ≠ .cfgErr) :
      Completes (.idput b) s { s with ident := s.ident.put b, err := 0 }
  | idmov {s : State} (hc : s.lifeCycle ≠ .cfgErr) :
      Completes .idmov s { s with ident := s.ident.fill s.idOut, err := 0 }
  | fprint {s : State} {label : List Byte} (hc : s.lifeCycle ≠ .cfgErr) (hl : labelOperand s.label = .ok label) :
      Completes .fprint s
        { s with fpOut := fpValue s.cache label, cache := fpFill Config.cacheEntries s.cache label, err := 0 }
  | generate {s : State} {md : BitVec 2} {tl : Nat} {label : List Byte} {mode : Mode} {t : TagLen} {i : Fin 16}
      (hc : s.lifeCycle = .ready) (hl : labelOperand s.label = .ok label) (hm : modeOperand md = some mode)
      (ht : tagLenOperand tl = some t) (hs : s.keyring.select s.inputs.selectorValue = some i) :
      Completes (.generate md tl) s (s.generated label mode t i)
  | decode {s : State} {buf : Ident} {label : List Byte} (hc : s.lifeCycle = .ready)
      (hb : identOperand s.ident = some buf) (hl : labelOperand s.label = .ok label) :
      Completes .decode s
        { s with
          result := decodeResult Config.digest s.keyring (fpValue s.cache label) buf
          cache := fpFill Config.cacheEntries s.cache label
          err := 0 }

/-- `t` is `s` with some error raised; a configuration error is raised in CONFIG only (R201). -/
def Raised (s t : State) : Prop :=
  ∃ e : ErrCode, (e.isConfigError = true → s.lifeCycle = .config) ∧ t = s.raise e

/-- An error that is no configuration error can be raised in every life-cycle state. -/
theorem raised_of_not_config {s : State} {e : ErrCode} (h : e.isConfigError = false) : Raised s (s.raise e) :=
  ⟨e, by simp [h], rfl⟩

theorem raised_of_config {s : State} (h : s.lifeCycle = .config) (e : ErrCode) : Raised s (s.raise e) :=
  ⟨e, fun _ => h, rfl⟩

/-- The errors of CHECK_LABEL are no configuration errors (R154). -/
theorem raised_of_labelOperand {s : State} {l : LabelBuffer} {e : ErrCode} (h : labelOperand l = .error e) :
    Raised s (s.raise e) := by
  obtain ⟨_, rfl⟩ | ⟨_, _, rfl⟩ := labelOperand_eq_error_iff.1 h <;> exact raised_of_not_config rfl

/-- A command that answers a next state raises an error or completes. -/
theorem exec_cases {i : Instr} {s t : State} (h : exec i s = .next t) : Raised s t ∨ Completes i s t := by
  cases i with
  | nop =>
    obtain rfl := execNop_cases h
    exact .inr (.nop s)
  | keyrst =>
    obtain ⟨_, rfl⟩ | ⟨hc, rfl⟩ := execKeyrst_cases h
    · exact .inl (raised_of_not_config rfl)
    · exact .inr (.keyrst hc)
  | keyput b =>
    obtain ⟨_, rfl⟩ | ⟨hc, _, rfl⟩ | ⟨hc, hl, rfl⟩ := execKeyput_cases h
    · exact .inl (raised_of_not_config rfl)
    · exact .inl (raised_of_config hc _)
    · exact .inr (.keyput hc hl)
  | keyload idx =>
    obtain ⟨_, rfl⟩ | ⟨hc, _, rfl⟩ | ⟨hc, _, _, rfl⟩ | ⟨_, hc, _, _, _, rfl⟩ | ⟨i, hc, hn, hi, hv, rfl⟩ :=
      execKeyload_cases h
    · exact .inl (raised_of_not_config rfl)
    · exact .inl (raised_of_config hc _)
    · exact .inl (raised_of_config hc _)
    · exact .inl (raised_of_config hc _)
    · exact .inr (.keyload hc hn hi hv)
  | sealKeyring sm fix =>
    obtain ⟨_, rfl⟩ | ⟨hc, _, rfl⟩ | ⟨hc, _, _, rfl⟩ | ⟨hc, hn, hf, rfl⟩ := execSeal_cases h
    · exact .inl (raised_of_not_config rfl)
    · exact .inl (raised_of_config hc _)
    · exact .inl (raised_of_config hc _)
    · exact .inr (.sealKeyring hc hn hf)
  | lblrst =>
    obtain ⟨_, rfl⟩ | ⟨hc, rfl⟩ := execLblrst_cases h
    · exact .inl (raised_of_not_config rfl)
    · exact .inr (.lblrst hc)
  | lblput b =>
    obtain ⟨_, rfl⟩ | ⟨hc, rfl⟩ := execLblput_cases h
    · exact .inl (raised_of_not_config rfl)
    · exact .inr (.lblput hc)
  | lblnul =>
    obtain ⟨_, rfl⟩ | ⟨hc, rfl⟩ := execLblnul_cases h
    · exact .inl (raised_of_not_config rfl)
    · exact .inr (.lblnul hc)
  | idrst =>
    obtain ⟨_, rfl⟩ | ⟨hc, rfl⟩ := execIdrst_cases h
    · exact .inl (raised_of_not_config rfl)
    · exact .inr (.idrst hc)
  | idput b =>
    obtain ⟨_, rfl⟩ | ⟨hc, rfl⟩ := execIdput_cases h
    · exact .inl (raised_of_not_config rfl)
    · exact .inr (.idput hc)
  | idmov =>
    obtain ⟨_, rfl⟩ | ⟨hc, rfl⟩ := execIdmov_cases h
    · exact .inl (raised_of_not_config rfl)
    · exact .inr (.idmov hc)
  | fprint =>
    obtain ⟨_, rfl⟩ | ⟨e, _, he, rfl⟩ | ⟨label, hc, hl, rfl⟩ := execFprint_cases h
    · exact .inl (raised_of_not_config rfl)
    · exact .inl (raised_of_labelOperand he)
    · exact .inr (.fprint hc hl)
  | generate md tl =>
    obtain ⟨_, rfl⟩ | ⟨e, _, he, rfl⟩ | ⟨_, _, _, _, rfl⟩ | ⟨_, _, _, _, _, _, rfl⟩ |
      ⟨label, mode, t, i, hc, hl, hm, ht, hs, rfl⟩ := execGenerate_cases h
    · exact .inl (raised_of_not_config rfl)
    · exact .inl (raised_of_labelOperand he)
    · exact .inl (raised_of_not_config rfl)
    · exact .inl (raised_of_not_config rfl)
    · exact .inr (.generate hc hl hm ht hs)
  | decode =>
    obtain ⟨_, rfl⟩ | ⟨_, _, rfl⟩ | ⟨_, e, _, _, he, rfl⟩ | ⟨buf, label, hc, hb, hl, rfl⟩ := execDecode_cases h
    · exact .inl (raised_of_not_config rfl)
    · exact .inl (raised_of_not_config rfl)
    · exact .inl (raised_of_labelOperand he)
    · exact .inr (.decode hc hb hl)

/-- A command word raises an error, or decodes to a command that completes (30_encoding.md R85). -/
theorem execWord_outcome {w : Word} {s t : State} (h : execWord w s = .next t) :
    Raised s t ∨ ∃ i, decodeWord w = .ok i ∧ Completes i s t := by
  obtain ⟨i, hi, hx⟩ | ⟨_, rfl⟩ := execWord_cases h
  · exact (exec_cases hx).imp id fun hc => ⟨i, hi, hc⟩
  · exact .inl (raised_of_not_config rfl)

/-- What error entry and every completion keep, every command word keeps. -/
theorem execWord_keeps {P : State → Prop} (hraise : ∀ s t, P s → Raised s t → P t)
    (hdone : ∀ i s t, P s → Completes i s t → P t) {w : Word} {s t : State} (hs : P s)
    (h : execWord w s = .next t) : P t := by
  obtain hr | ⟨i, _, hc⟩ := execWord_outcome h
  · exact hraise s t hs hr
  · exact hdone i s t hs hc

/-- The first word of a sequence answers a state from which the rest runs. -/
theorem execWords_cons_cases {w : Word} {ws : List Word} {s t : State} (h : execWords (w :: ws) s = .next t) :
    ∃ u, execWord w s = .next u ∧ execWords ws u = .next t := by
  rw [execWords] at h
  split at h
  · exact ⟨_, by assumption, h⟩
  · cases h
  · cases h

/-- A property that every command word keeps holds at the end of every sequence of them. -/
theorem execWords_keeps {P : State → Prop} (hword : ∀ w s t, P s → execWord w s = .next t → P t) {ws : List Word}
    {s t : State} (hs : P s) (h : execWords ws s = .next t) : P t := by
  induction ws generalizing s with
  | nil => cases h; exact hs
  | cons w ws ih =>
    obtain ⟨u, hu, ht⟩ := execWords_cons_cases h
    exact ih (hword w s u hs hu) ht

/-! ### Completion (10_state.md R34) -/

theorem Completes.err_eq_zero {i : Instr} {s t : State} (h : Completes i s t) : t.err = 0 := by
  cases h <;> rfl

theorem Completes.faults_eq {i : Instr} {s t : State} (h : Completes i s t) : t.faults = s.faults := by
  cases h <;> rfl

/-- The host's pending inputs are no concern of a command. -/
theorem Completes.host_eq {i : Instr} {s t : State} (h : Completes i s t) : t.inputs.host = s.inputs.host := by
  cases h with
  | generate => simp [State.generated]
  | _ => rfl

/-- Only SEAL moves the life cycle when it completes (R22). -/
theorem Completes.lifeCycle_eq_or_seal {i : Instr} {s t : State} (h : Completes i s t) :
    t.lifeCycle = s.lifeCycle ∨
      ∃ sm fix, i = .sealKeyring sm fix ∧ s.lifeCycle = .config ∧ t.lifeCycle = .ready := by
  cases h with
  | sealKeyring hc => exact .inr ⟨_, _, rfl, hc, rfl⟩
  | _ => exact .inl rfl

/-- Outside CONFIG no command that completes writes the keyring (R51). -/
theorem Completes.keyring_eq {i : Instr} {s t : State} (h : Completes i s t) (hs : s.lifeCycle ≠ .config) :
    t.keyring = s.keyring := by
  cases h with
  | keyload hc => exact absurd hc hs
  | sealKeyring hc => exact absurd hc hs
  | _ => rfl

/-- No command that completes enters or leaves CFGERR. -/
theorem Completes.lifeCycle_cfgErr_iff {i : Instr} {s t : State} (h : Completes i s t) :
    t.lifeCycle = .cfgErr ↔ s.lifeCycle = .cfgErr := by
  obtain heq | ⟨_, _, _, hs, ht⟩ := h.lifeCycle_eq_or_seal
  · rw [heq]
  · simp [hs, ht]

/-- A command that completes leaves the cache, or looks a legal label up in it. -/
theorem Completes.cache_eq_or_fill {i : Instr} {s t : State} (h : Completes i s t) :
    t.cache = s.cache ∨
      ∃ label, label.length ≤ 255 ∧ t.cache = fpFill Config.cacheEntries s.cache label := by
  cases h with
  | fprint hc hl => exact .inr ⟨_, (labelOperand_length hl).2, rfl⟩
  | generate hc hl => exact .inr ⟨_, (labelOperand_length hl).2, rfl⟩
  | decode hc hb hl => exact .inr ⟨_, (labelOperand_length hl).2, rfl⟩
  | _ => exact .inl rfl

/-! ### Error entry (60_exceptions.md R200) -/

theorem Raised.err_ne_zero {s t : State} (h : Raised s t) : t.err ≠ 0 := by
  obtain ⟨e, _, rfl⟩ := h
  exact s.raise_err_ne_zero e

theorem Raised.keyring_eq {s t : State} (h : Raised s t) : t.keyring = s.keyring := by
  obtain ⟨e, _, rfl⟩ := h
  rfl

/-- Error entry moves the life cycle only for a configuration error, and only from CONFIG (R201, R206). -/
theorem Raised.lifeCycle_eq_or_config {s t : State} (h : Raised s t) :
    t.lifeCycle = s.lifeCycle ∨
      (s.lifeCycle = .config ∧ t.lifeCycle = .cfgErr ∧ 3 ≤ t.err.toNat ∧ t.err.toNat ≤ 7) := by
  obtain ⟨e, hcfg, rfl⟩ := h
  by_cases he : e.isConfigError = true
  · rw [State.raise_err_toNat]
    exact .inr ⟨hcfg he, by simp [he], e.isConfigError_iff.1 he⟩
  · exact .inl (by simp [he])

/-- Error entry sets the bit of its code (R200). -/
theorem ErrCode.faultBit_getLsbD_code (e : ErrCode) : e.faultBit.getLsbD e.code = true := by
  cases e <;> decide

/-- No error has a reserved bit of `FAULTS`. -/
theorem ErrCode.faultBit_and_reserved (e : ErrCode) : e.faultBit &&& 0xFFFFE001 = 0 := by
  cases e <;> decide

/-- The configuration errors are the bits 3 to 7 of `FAULTS`. -/
theorem ErrCode.faultBit_and_config (e : ErrCode) : e.faultBit &&& 0x000000F8 ≠ 0 ↔ e.isConfigError = true := by
  cases e <;> decide

/-- A mask selects nothing of a disjunction exactly when it selects nothing of either part. -/
theorem or_and_eq_zero_iff {n : Nat} (x y m : BitVec n) : (x ||| y) &&& m = 0 ↔ x &&& m = 0 ∧ y &&& m = 0 := by
  rw [BitVec.and_or_distrib_right]
  exact BitVec.or_eq_zero_iff

theorem Raised.faults_getLsbD_err {s t : State} (h : Raised s t) : t.faults.getLsbD t.err.toNat = true := by
  obtain ⟨e, _, rfl⟩ := h
  rw [State.raise_err_toNat, State.raise_faults, BitVec.getLsbD_or, e.faultBit_getLsbD_code, Bool.or_true]

/-- Error entry clears no bit of `FAULTS`. -/
theorem Raised.faults_getLsbD_mono {s t : State} (h : Raised s t) {n : Nat} (hn : s.faults.getLsbD n = true) :
    t.faults.getLsbD n = true := by
  obtain ⟨e, _, rfl⟩ := h
  rw [State.raise_faults, BitVec.getLsbD_or, hn, Bool.true_or]

/-! ### Ranges of the operand buffers (R27, R28) -/

/-- LBLPUT keeps the label in its 255 bytes, and the label is present afterwards (43_fingerprint.md R161). -/
theorem LabelBuffer.put_bounds {l : LabelBuffer} (hl : l.bytes.length ≤ 255) (b : Byte) :
    (l.put b).len ≤ 256 ∧ (l.put b).bytes.length ≤ 255 ∧ (l.put b).present = true := by
  unfold LabelBuffer.put Config.labelMax
  split
  · refine ⟨by simp only; omega, ?_, rfl⟩
    rw [putByte_length]
    omega
  · exact ⟨le_rfl, hl, rfl⟩

theorem IdBuffer.put_cnt_le (d : IdBuffer) (b : Byte) : (d.put b).cnt ≤ 17 := by
  unfold IdBuffer.put
  split
  · simp only
    omega
  · exact le_rfl

/-! ### What DECODE reports (44_facade.md R177, R178) -/

/-- `UNPACK` reads no timestamp from an identifier of mode RANDOM (40_codec.md R112). -/
theorem unpack_ts_of_random {buf : Ident} (h : (unpack buf).mode = .random) : (unpack buf).ts = 0 := by
  have hm : infoMode (bufInfo buf (bufTagLen buf)) = .random := h
  simp only [unpack, hm]

/-- A valid tag says that the version is recognised and the index configured. -/
theorem validTag_requires {digest : List Byte → List Byte} {k : Keyring} {buf : Ident}
    (h : validTag digest k buf = true) :
    (unpack buf).ver = Config.version ∧ k.valid (slotOf (unpack buf).idx) = true := by
  unfold validTag at h
  split at h
  · cases h
  · rename_i secret hs
    have hv : (unpack buf).ver = Config.version := by
      simpa using (Bool.and_eq_true_iff.1 h).1
    exact ⟨hv, (Keyring.lookup_eq_some_iff.1 hs).1⟩

end Sys2Proof.Machine
end

section
/-! The machine's invariant, part by part: for each part, what error entry and what every completing command do to it. A
command whose case is not named in a proof writes nothing that the part speaks of. -/

namespace Sys2Proof.Safety

open Sys2Proof.Machine

/-! ### The keyring (10_state.md R24) -/

theorem configuredCount_le (k : Keyring) : configuredCount k ≤ 16 := by
  simpa [configuredCount] using List.length_filter_le k.valid (List.finRange 16)

/-- Loading a slot that is not configured adds one configured index. -/
theorem configuredCount_load {k : Keyring} {i : Fin 16} (hi : k.valid i = false) (x : List Byte) :
    configuredCount (k.load i x) = configuredCount k + 1 := by
  have hcard (k : Keyring) : configuredCount k = (Finset.univ.filter fun j => k.valid j = true).card := by
    rw [configuredCount, ← List.toFinset_card_of_nodup ((List.nodup_finRange 16).filter _)]
    congr 1
    ext j
    simp
  have hload : (Finset.univ.filter fun j => (k.load i x).valid j = true) =
      insert i (Finset.univ.filter fun j => k.valid j = true) := by
    ext j
    simp [Keyring.load_valid]
  rw [hcard, hcard, hload, Finset.card_insert_of_notMem (by simp [hi])]

theorem KeyringCounted.raised {s t : State} (hs : KeyringCounted s) (h : Raised s t) : KeyringCounted t := by
  obtain ⟨hcount, hready⟩ := hs
  obtain hl | ⟨_, hl, _⟩ := h.lifeCycle_eq_or_config
  · simpa only [KeyringCounted, h.keyring_eq, hl] using ⟨hcount, hready⟩
  · simpa [KeyringCounted, h.keyring_eq, hl] using hcount

theorem KeyringCounted.completes {i : Instr} {s t : State} (hs : KeyringCounted s) (h : Completes i s t) :
    KeyringCounted t := by
  obtain ⟨hcount, hready⟩ := hs
  cases h with
  | keyload hc hn hi hv =>
    refine ⟨?_, fun _ => Nat.succ_pos _⟩
    rw [configuredCount_load hv, ← hcount, Keyring.load_count]
  | sealKeyring hc hn hf => exact ⟨hcount, fun _ => Nat.pos_of_ne_zero hn⟩
  | _ => exact ⟨hcount, hready⟩

/-! ### The size of the secrets (R23, R25) -/

theorem SecretsBounded.raised {s t : State} (hs : SecretsBounded s) (h : Raised s t) : SecretsBounded t := by
  obtain ⟨e, _, rfl⟩ := h
  exact hs

theorem SecretsBounded.completes {i : Instr} {s t : State} (hs : SecretsBounded s) (h : Completes i s t) :
    SecretsBounded t := by
  obtain ⟨hslots, hlen, hbytes⟩ := hs
  cases h with
  | keyrst => exact ⟨hslots, Nat.zero_le _, hbytes⟩
  | keyput hc hl =>
    refine ⟨hslots, ?_, ?_⟩
    · rw [KeyStaging.put_len]
      omega
    · rw [KeyStaging.put_bytes, putByte_length]
      omega
  | @keyload _ idx i hc hn hi hv =>
    refine ⟨fun j => ?_, Nat.zero_le _, hbytes⟩
    rw [Keyring.load_slot]
    split
    · rw [putBytes_length, KeyStaging.secret_length]
      exact ⟨hlen, max_le hlen (hslots i).2⟩
    · exact hslots j
  | sealKeyring => exact ⟨hslots, Nat.zero_le _, hbytes⟩
  | _ => exact ⟨hslots, hlen, hbytes⟩

/-! ### The selector configuration (R26) -/

theorem SelectorOk.raised {s t : State} (hs : SelectorOk s) (h : Raised s t) : SelectorOk t := by
  obtain ⟨hfixed, hrandom, hreset⟩ := hs
  obtain hl | ⟨hc, hl, _⟩ := h.lifeCycle_eq_or_config
  · simpa only [SelectorOk, h.keyring_eq, hl] using ⟨hfixed, hrandom, hreset⟩
  · simpa [SelectorOk, h.keyring_eq, hl] using ⟨hrandom, hreset (by simp [hc])⟩

theorem SelectorOk.completes {i : Instr} {s t : State} (hs : SelectorOk s) (h : Completes i s t) : SelectorOk t := by
  obtain ⟨hfixed, hrandom, hreset⟩ := hs
  cases h with
  | keyload hc hn hi hv => exact ⟨fun hr => by simp [hc] at hr, hrandom, hreset⟩
  | @sealKeyring _ sm fix hc hn hf =>
    cases sm with
    | random => exact ⟨fun _ hm => by simp at hm, fun _ => rfl, fun hr => absurd rfl hr⟩
    | fixed =>
      have hv : s.keyring.valid (slotOf fix) = true := by simpa using hf
      exact ⟨fun _ _ => hv, fun hm => by simp at hm, fun hr => absurd rfl hr⟩
  | _ => exact ⟨hfixed, hrandom, hreset⟩

/-! ### The operand buffers (R27, R28) -/

theorem OperandsOk.raised {s t : State} (hs : OperandsOk s) (h : Raised s t) : OperandsOk t := by
  obtain ⟨e, _, rfl⟩ := h
  exact hs

theorem OperandsOk.completes {i : Instr} {s t : State} (hs : OperandsOk s) (h : Completes i s t) : OperandsOk t := by
  obtain ⟨hlen, hbytes, habsent, hcnt⟩ := hs
  cases h with
  | lblrst => exact ⟨Nat.zero_le _, hbytes, fun _ => rfl, hcnt⟩
  | @lblput _ b =>
    obtain ⟨hlen', hbytes', hpresent⟩ := LabelBuffer.put_bounds hbytes b
    exact ⟨hlen', hbytes', fun hp => by simp [hpresent] at hp, hcnt⟩
  | lblnul => exact ⟨Nat.zero_le _, hbytes, fun _ => rfl, hcnt⟩
  | idrst => exact ⟨hlen, hbytes, habsent, Nat.zero_le _⟩
  | idput => exact ⟨hlen, hbytes, habsent, IdBuffer.put_cnt_le _ _⟩
  | idmov => exact ⟨hlen, hbytes, habsent, Nat.le_succ 16⟩
  | _ => exact ⟨hlen, hbytes, habsent, hcnt⟩

/-! ### The fingerprint cache (R29, R30) -/

/-- The fill adds the label's own checksum, and only after a miss (43_fingerprint.md R156). -/
theorem CacheConsistent.fpFill {cache : List CacheEntry} (h : CacheConsistent cache) (entries : Nat)
    (label : List Byte) : CacheConsistent (fpFill entries cache label) := by
  obtain ⟨hcrc, hnodup⟩ := h
  obtain heq | ⟨heq, _, hmiss⟩ := fpFill_cases entries cache label
  · rw [heq]
    exact ⟨hcrc, hnodup⟩
  · rw [heq]
    refine ⟨?_, ?_⟩
    · simpa [or_imp, forall_and] using hcrc
    · rw [List.map_append, List.nodup_append]
      exact ⟨hnodup, List.nodup_singleton _, by simpa using hmiss⟩

theorem CacheBounded.fpFill {cache : List CacheEntry} (h : CacheBounded cache) {label : List Byte}
    (hl : label.length ≤ 255) : CacheBounded (fpFill Config.cacheEntries cache label) := by
  obtain ⟨hsize, hlabels⟩ := h
  obtain heq | ⟨heq, hroom, _⟩ := fpFill_cases Config.cacheEntries cache label
  · rw [heq]
    exact ⟨hsize, hlabels⟩
  · rw [heq]
    refine ⟨by simpa using hroom, ?_⟩
    simpa [or_imp, forall_and] using ⟨hlabels, hl⟩

theorem CacheConsistent.raised {s t : State} (hs : CacheConsistent s.cache) (h : Raised s t) :
    CacheConsistent t.cache := by
  obtain ⟨e, _, rfl⟩ := h
  exact hs

theorem CacheConsistent.completes {i : Instr} {s t : State} (hs : CacheConsistent s.cache) (h : Completes i s t) :
    CacheConsistent t.cache := by
  obtain heq | ⟨label, _, heq⟩ := h.cache_eq_or_fill
  · rwa [heq]
  · rw [heq]
    exact hs.fpFill _ _

theorem CacheBounded.raised {s t : State} (hs : CacheBounded s.cache) (h : Raised s t) : CacheBounded t.cache := by
  obtain ⟨e, _, rfl⟩ := h
  exact hs

theorem CacheBounded.completes {i : Instr} {s t : State} (hs : CacheBounded s.cache) (h : Completes i s t) :
    CacheBounded t.cache := by
  obtain heq | ⟨label, hl, heq⟩ := h.cache_eq_or_fill
  · rwa [heq]
  · rw [heq]
    exact hs.fpFill hl

/-! ### The error registers (R34, R43, 60_exceptions.md R201) -/

theorem ErrorsOk.raised {s t : State} (hs : ErrorsOk s) (h : Raised s t) : ErrorsOk t := by
  obtain ⟨_, _, hreserved, hcfg⟩ := hs
  refine ⟨?_, fun _ => h.faults_getLsbD_err, ?_, ?_⟩ <;> obtain ⟨e, _, rfl⟩ := h
  · rw [State.raise_err_toNat]
    exact e.code_range.2
  · exact (or_and_eq_zero_iff _ _ _).2 ⟨hreserved, e.faultBit_and_reserved⟩
  · rw [State.raise_faults, ne_eq, or_and_eq_zero_iff, not_and_or, ← ne_eq, ← ne_eq, ← hcfg, e.faultBit_and_config,
      State.raise_lifeCycle]
    by_cases he : e.isConfigError = true <;> simp [he]

theorem ErrorsOk.completes {i : Instr} {s t : State} (hs : ErrorsOk s) (h : Completes i s t) : ErrorsOk t := by
  obtain ⟨_, _, hreserved, hcfg⟩ := hs
  refine ⟨by simp [h.err_eq_zero], fun hne => absurd h.err_eq_zero hne, ?_, ?_⟩
  · rwa [h.faults_eq]
  · rwa [h.faults_eq, h.lifeCycle_cfgErr_iff]

/-! ### The decode result (44_facade.md R177, R178) -/

theorem ResultOk.raised {s t : State} (hs : ResultOk s) (h : Raised s t) : ResultOk t := by
  obtain ⟨e, _, rfl⟩ := h
  exact hs

theorem ResultOk.completes {i : Instr} {s t : State} (hs : ResultOk s) (h : Completes i s t) : ResultOk t := by
  obtain ⟨hts, hvalid⟩ := hs
  cases h with
  | @keyload _ idx i hc hn hi hv =>
    refine ⟨hts, fun ht => ⟨(hvalid ht).1, ?_⟩⟩
    rw [Keyring.load_valid, (hvalid ht).2, ite_self]
  | decode hc hb hl => exact ⟨unpack_ts_of_random, validTag_requires⟩
  | _ => exact ⟨hts, hvalid⟩

/-! ### The whole invariant -/

/-- The invariant says nothing of the pending inputs. -/
theorem Inv.with_inputs {s : State} (h : Inv s) (p : Inputs) : Inv { s with inputs := p } :=
  ⟨h.keyring, h.secrets, h.selector, h.operands, h.cache, h.cacheSize, h.errors, h.result⟩

theorem Inv.raised {s t : State} (hs : Inv s) (h : Raised s t) : Inv t :=
  ⟨hs.keyring.raised h, hs.secrets.raised h, hs.selector.raised h, hs.operands.raised h, hs.cache.raised h,
    hs.cacheSize.raised h, hs.errors.raised h, hs.result.raised h⟩

theorem Inv.completes {i : Instr} {s t : State} (hs : Inv s) (h : Completes i s t) : Inv t :=
  ⟨hs.keyring.completes h, hs.secrets.completes h, hs.selector.completes h, hs.operands.completes h,
    hs.cache.completes h, hs.cacheSize.completes h, hs.errors.completes h, hs.result.completes h⟩

theorem Inv.execWord {w : Word} {s t : State} (hs : Inv s) (h : execWord w s = .next t) : Inv t :=
  execWord_keeps (fun _ _ => Inv.raised) (fun _ _ _ => Inv.completes) hs h

/-- No slot is loaded after reset. -/
theorem reset_slot (i : Fin 16) : State.reset.keyring.slots.get i = KeySlot.empty := Vector.getElem_replicate i.isLt

/-- The invariant holds in the state of R50. -/
theorem inv_reset : Inv State.reset where
  keyring := ⟨by decide, by decide⟩
  secrets := by
    refine ⟨fun i => ?_, Nat.zero_le _, Nat.zero_le _⟩
    rw [reset_slot]
    exact ⟨Nat.zero_le _, Nat.zero_le _⟩
  selector := ⟨by decide, fun _ => rfl, fun _ => rfl⟩
  operands := ⟨by decide, by decide, fun _ => rfl, by decide⟩
  cache := ⟨by simp [State.reset], List.nodup_nil⟩
  cacheSize := ⟨Nat.zero_le _, by simp [State.reset]⟩
  errors := ⟨by decide, by decide, by decide, by decide⟩
  result := ⟨fun _ => rfl, by decide⟩

/-! ### Settled -/

/-- Settles O54. -/
theorem resetSatisfiesInv : Obligations.ResetSatisfiesInv := inv_reset

/-- Settles O55, by the three cases of a step: idle, reset, a command word. -/
theorem everyStepKeepsInv : Obligations.EveryStepKeepsInv := by
  intro s t hs h
  obtain ⟨_, rfl⟩ | ⟨rest, _, rfl⟩ | ⟨w, rest, _, hw⟩ := step_cases h
  · exact hs
  · exact inv_reset.with_inputs _
  · exact (hs.with_inputs _).execWord hw

/-- Settles O31, from the cache's part of the invariant. -/
theorem cacheInvariantIsPreserved : Obligations.CacheInvariantIsPreserved :=
  ⟨inv_reset.cache, fun _ _ _ hs h =>
    execWord_keeps (P := fun u => CacheConsistent u.cache) (fun _ _ => CacheConsistent.raised)
      (fun _ _ _ => CacheConsistent.completes) hs h⟩

/-- Settles O53, from the keyring's part of the invariant. -/
theorem keyCountIsTheNumberOfConfiguredIndices : Obligations.KeyCountIsTheNumberOfConfiguredIndices := by
  refine ⟨inv_reset.keyring, fun _ _ _ hs h => ?_, fun s hs hr => ?_⟩
  · exact execWord_keeps (fun _ _ => KeyringCounted.raised) (fun _ _ _ => KeyringCounted.completes) hs h
  · obtain ⟨hcount, hready⟩ := hs
    exact ⟨hready hr, hcount ▸ configuredCount_le _⟩

end Sys2Proof.Safety
end

section
/-! What a command leaves alone: `FAULTS` (10_state.md R34), the life cycle (R22), the keyring (R51), and every element
outside the command's row of the access table (R52). -/

namespace Sys2Proof.Machine

open Sys2Proof.Safety

/-- A command word clears no bit of `FAULTS`. -/
theorem execWord_faults_mono {w : Word} {s t : State} (h : execWord w s = .next t) {n : Nat}
    (hn : s.faults.getLsbD n = true) : t.faults.getLsbD n = true := by
  obtain hr | ⟨i, _, hc⟩ := execWord_outcome h
  · exact hr.faults_getLsbD_mono hn
  · rwa [hc.faults_eq]

/-- Settles O10: a raised error sets its bit and a completion leaves `FAULTS`. -/
theorem faultsAreSticky : Obligations.FaultsAreSticky := by
  refine ⟨fun w s t h herr => ?_, fun w s t h herr => ?_, fun ws s t h n hn => ?_⟩
  · obtain hr | ⟨i, _, hc⟩ := execWord_outcome h
    · exact absurd herr hr.err_ne_zero
    · exact hc.faults_eq
  · obtain hr | ⟨i, _, hc⟩ := execWord_outcome h
    · exact hr.faults_getLsbD_err
    · exact absurd hc.err_eq_zero herr
  · exact execWords_keeps (P := fun u => u.faults.getLsbD n = true) (fun _ _ _ hs hw => execWord_faults_mono hw hs) hn h

/-- Settles O15, by the cases of a step: among the commands only SEAL and a configuration error move `STATE`. -/
theorem lifeCycleChangesOnlyBySealErrorOrReset : Obligations.LifeCycleChangesOnlyBySealErrorOrReset := by
  intro s t h hne
  obtain ⟨_, rfl⟩ | ⟨rest, hhost, rfl⟩ | ⟨w, rest, hhost, hw⟩ := step_cases h
  · exact absurd rfl hne
  · exact .inl ⟨rest, hhost, rfl⟩
  · obtain hr | ⟨i, hi, hc⟩ := execWord_outcome hw
    · exact .inr (.inr (hr.lifeCycle_eq_or_config.resolve_left hne))
    · obtain ⟨sm, fix, rfl, hs, ht⟩ := hc.lifeCycle_eq_or_seal.resolve_left hne
      exact .inr (.inl ⟨rest, w, sm, fix, hhost, hi, hs, ht, hc.err_eq_zero⟩)

/-- Outside CONFIG a command word leaves the keyring and the life cycle. -/
theorem execWord_keyring_lifeCycle_eq {w : Word} {s t : State} (hs : s.lifeCycle ≠ .config)
    (h : execWord w s = .next t) : t.keyring = s.keyring ∧ t.lifeCycle = s.lifeCycle := by
  obtain hr | ⟨i, _, hc⟩ := execWord_outcome h
  · exact ⟨hr.keyring_eq, hr.lifeCycle_eq_or_config.resolve_right fun hcfg => hs hcfg.1⟩
  · refine ⟨hc.keyring_eq hs, hc.lifeCycle_eq_or_seal.resolve_right ?_⟩
    rintro ⟨_, _, _, hcfg, _⟩
    exact hs hcfg

/-- Settles O16, by induction on the words: each keeps the keyring and the state that forbids to change it. -/
theorem keyringIsImmutableOutsideConfig : Obligations.KeyringIsImmutableOutsideConfig := by
  intro ws s t hs h
  refine execWords_keeps (P := fun u => u.keyring = s.keyring ∧ u.lifeCycle = s.lifeCycle) ?_ ⟨rfl, rfl⟩ h
  rintro w u v ⟨hk, hl⟩ hw
  obtain ⟨hk', hl'⟩ := execWord_keyring_lifeCycle_eq (hl ▸ hs) hw
  exact ⟨hk'.trans hk, hl'.trans hl⟩

/-- The access table of R52, read against the state each command completes in: an element of the table is in the
command's row, or the update does not name it. -/
theorem Completes.same_of_not_mem_writes {i : Instr} {s t : State} (h : Completes i s t) (x : Elem)
    (hx : x ∉ writes i) : x.same s t := by
  cases h with
  | generate => cases x <;> simp_all [writes, Elem.same, State.generated]
  | _ => cases x <;> simp_all [writes, Elem.same]

/-- Settles O17: without error the command completes, and the access table holds for each completion. -/
theorem commandsWriteOnlyTheirRow : Obligations.CommandsWriteOnlyTheirRow := by
  intro i s t h herr
  obtain hr | hc := exec_cases h
  · exact absurd herr hr.err_ne_zero
  · exact ⟨hc.same_of_not_mem_writes, hc.host_eq⟩

end Sys2Proof.Machine
end

section
/-! The result register file: each field at its bits (10_state.md R41 to R48), the reset values (R50) and the addresses
that are none of the twelve (R49). Each register is a sum of its fields, so a field is a quotient and a remainder. -/

namespace Sys2Proof.Machine

open Sys2Proof.Safety

/-- A bit field that is 0, as arithmetic. -/
theorem extractLsb'_eq_zero_of {n : Nat} {v : BitVec n} {a k : Nat} (h : v.toNat / 2 ^ a % 2 ^ k = 0) :
    v.extractLsb' a k = 0 :=
  BitVec.eq_of_toNat_eq ((extractLsb'_toNat_of h).trans BitVec.toNat_zero.symm)

/-! ### STATUS (R41) -/

theorem regStatus_fields {s : State} (hl : s.label.len ≤ 256) (hd : s.ident.cnt ≤ 17) :
    (regStatus s).extractLsb' 0 2 = s.lifeCycle.code ∧ (regStatus s).getLsbD 2 = s.ok ∧
    (regStatus s).getLsbD 3 = s.label.present ∧ ((regStatus s).extractLsb' 4 9).toNat = s.label.len ∧
    ((regStatus s).extractLsb' 13 5).toNat = s.ident.cnt ∧ (regStatus s).extractLsb' 18 14 = 0 := by
  have hv := regStatus_toNat s
  have hcode := s.lifeCycle.code.isLt
  have hok := s.ok.toNat_lt
  have hpresent := s.label.present.toNat_lt
  refine ⟨BitVec.eq_of_toNat_eq (extractLsb'_toNat_of ?_), getLsbD_eq_of ?_, getLsbD_eq_of ?_, extractLsb'_toNat_of ?_,
    extractLsb'_toNat_of ?_, extractLsb'_eq_zero_of ?_⟩ <;> omega

theorem State.ok_eq_true_iff (s : State) : s.ok = true ↔ s.err = 0 := by
  simp [State.ok]

/-! ### KRINFO (R44) -/

theorem selModeBit_toNat (m : SelMode) : (selModeBit m).toNat = (decide (m = .fixed)).toNat := by
  cases m <;> rfl

theorem regKrinfo_getLsbD_valid (s : State) (i : Fin 16) : (regKrinfo s).getLsbD i.val = s.keyring.valid i := by
  have hi := i.isLt
  rw [regKrinfo, BitVec.getLsbD_append, if_pos hi, validBits, BitVec.getLsbD_ofFnLE, dif_pos hi]

theorem regKrinfo_fields {s : State} (hn : s.keyring.count ≤ 16) :
    ((regKrinfo s).extractLsb' 16 5).toNat = s.keyring.count ∧ (regKrinfo s).extractLsb' 21 3 = 0 ∧
    (regKrinfo s).getLsbD 24 = decide (s.keyring.selMode = .fixed) ∧ (regKrinfo s).extractLsb' 25 3 = 0 ∧
    (regKrinfo s).extractLsb' 28 4 = s.keyring.selFix := by
  have hv := regKrinfo_toNat s
  have hvalid := (validBits s.keyring).isLt
  have hmode := selModeBit_toNat s.keyring.selMode
  have hmode' := (decide (s.keyring.selMode = .fixed)).toNat_lt
  have hfix := s.keyring.selFix.isLt
  refine ⟨extractLsb'_toNat_of ?_, extractLsb'_eq_zero_of ?_, getLsbD_eq_of ?_, extractLsb'_eq_zero_of ?_,
    BitVec.eq_of_toNat_eq (extractLsb'_toNat_of ?_)⟩ <;> omega

/-! ### ID_OUT (R45, 20_memory.md R64) -/

/-- The four bytes of register ID_OUT`k`. -/
def idOutBytes (id : Ident) (k : Nat) : List Byte :=
  [bufByte id (4 * k), bufByte id (4 * k + 1), bufByte id (4 * k + 2), bufByte id (4 * k + 3)]

theorem regIdOut_toNat_eq_beNat (s : State) (k : Nat) : (regIdOut s k).toNat = beNat (idOutBytes s.idOut k) := by
  simp [regIdOut_toNat, beNat, idOutBytes]

theorem ident_toList_eq_idOutBytes (id : Ident) :
    id.toList = idOutBytes id 0 ++ idOutBytes id 1 ++ idOutBytes id 2 ++ idOutBytes id 3 := by
  rw [ident_toList]
  rfl

/-- A register joined on the right of big-endian bytes is four more of them. -/
theorem append_regIdOut_toNat {n : Nat} {x : BitVec n} {b : List Byte} (hx : x.toNat = beNat b) (s : State) (k : Nat) :
    (x ++ regIdOut s k).toNat = beNat (b ++ idOutBytes s.idOut k) := by
  have hpow : 256 ^ (idOutBytes s.idOut k).length = 2 ^ 32 := by simp [idOutBytes]
  rw [append_toNat, hx, regIdOut_toNat_eq_beNat, beNat_append, hpow]

theorem eq_ofNat_of_toNat_eq {n v : Nat} {x : BitVec n} (h : x.toNat = v) : x = BitVec.ofNat n v := by
  rw [← h, BitVec.ofNat_toNat, BitVec.setWidth_eq]

theorem regIdOut_high (s : State) : regIdOut s 0 ++ regIdOut s 1 = identHigh s.idOut := by
  rw [identHigh, ident_toList_eq_idOutBytes]
  exact eq_ofNat_of_toNat_eq (append_regIdOut_toNat (regIdOut_toNat_eq_beNat s 0) s 1)

theorem regIdOut_low (s : State) : regIdOut s 2 ++ regIdOut s 3 = identLow s.idOut := by
  rw [identLow, ident_toList_eq_idOutBytes]
  exact eq_ofNat_of_toNat_eq (append_regIdOut_toNat (regIdOut_toNat_eq_beNat s 2) s 3)

theorem regIdOut_value (s : State) :
    regIdOut s 0 ++ regIdOut s 1 ++ regIdOut s 2 ++ regIdOut s 3 = identValue s.idOut := by
  rw [identValue, ident_toList_eq_idOutBytes]
  exact eq_ofNat_of_toNat_eq (append_regIdOut_toNat (append_regIdOut_toNat
    (append_regIdOut_toNat (regIdOut_toNat_eq_beNat s 0) s 1) s 2) s 3)

/-! ### INFO (R47) and the timestamp (R48) -/

theorem regInfo_fields (s : State) :
    (regInfo s).getLsbD 0 = s.result.validTag ∧ (regInfo s).getLsbD 1 = s.result.typeMatch ∧
    (regInfo s).extractLsb' 2 1 = modeBit s.result.mode ∧ (regInfo s).extractLsb' 3 3 = s.result.ver ∧
    (regInfo s).extractLsb' 6 4 = s.result.secIdx ∧ (regInfo s).getLsbD 10 = s.result.flag ∧
    (regInfo s).extractLsb' 11 21 = 0 := by
  have hv := regInfo_toNat s
  have hvalid := s.result.validTag.toNat_lt
  have hmatch := s.result.typeMatch.toNat_lt
  have hmode := (modeBit s.result.mode).isLt
  have hver := s.result.ver.isLt
  have hidx := s.result.secIdx.isLt
  have hflag := s.result.flag.toNat_lt
  refine ⟨getLsbD_eq_of ?_, getLsbD_eq_of ?_, BitVec.eq_of_toNat_eq (extractLsb'_toNat_of ?_),
    BitVec.eq_of_toNat_eq (extractLsb'_toNat_of ?_), BitVec.eq_of_toNat_eq (extractLsb'_toNat_of ?_), getLsbD_eq_of ?_,
    extractLsb'_eq_zero_of ?_⟩ <;> omega

theorem regTsLo_toNat (s : State) : (regTsLo s).toNat = s.result.ts.toNat % 2 ^ 32 :=
  extractLsb'_toNat_of (by rw [pow_zero, Nat.div_one])

theorem regTsHi_toNat (s : State) : (regTsHi s).toNat = s.result.ts.toNat / 2 ^ 32 := by
  have hts := s.result.ts.isLt
  have hhigh : (s.result.ts.extractLsb' 32 16).toNat = s.result.ts.toNat / 2 ^ 32 := extractLsb'_toNat_of (by omega)
  rw [regTsHi, append_toNat, hhigh]
  simp

/-! ### All addresses (R40, R49) -/

theorem regRead_unmapped (s : State) {a : Word} (h : ¬ ∃ k : Nat, k < 12 ∧ a = BitVec.ofNat 32 (4 * k)) :
    regRead s a = 0 := by
  unfold regRead
  split
  · exact absurd ⟨0, by decide, rfl⟩ h
  · exact absurd ⟨1, by decide, rfl⟩ h
  · exact absurd ⟨2, by decide, rfl⟩ h
  · exact absurd ⟨3, by decide, rfl⟩ h
  · exact absurd ⟨4, by decide, rfl⟩ h
  · exact absurd ⟨5, by decide, rfl⟩ h
  · exact absurd ⟨6, by decide, rfl⟩ h
  · exact absurd ⟨7, by decide, rfl⟩ h
  · exact absurd ⟨8, by decide, rfl⟩ h
  · exact absurd ⟨9, by decide, rfl⟩ h
  · exact absurd ⟨10, by decide, rfl⟩ h
  · exact absurd ⟨11, by decide, rfl⟩ h
  · rfl

/-- The registers do not show the pending inputs. -/
theorem regRead_applyReset (s : State) (a : Word) : regRead s.applyReset a = regRead State.reset a := rfl

/-- The reset values of the twelve registers: 0, but for the bit `OK` of STATUS. -/
theorem regRead_reset_mapped :
    ∀ k < 12, regRead State.reset (BitVec.ofNat 32 (4 * k)) = if k = 0 then 0x00000004 else 0 := by
  decide

theorem regRead_reset (a : Word) : regRead State.reset a = if a = 0 then 0x00000004 else 0 := by
  by_cases ha : ∃ k : Nat, k < 12 ∧ a = BitVec.ofNat 32 (4 * k)
  · obtain ⟨k, hk, rfl⟩ := ha
    have hzero : BitVec.ofNat 32 (4 * k) = 0 ↔ k = 0 := by bv_omega
    rw [regRead_reset_mapped k hk]
    simp only [hzero]
  · have hne : a ≠ 0 := fun h0 => ha ⟨0, by decide, h0⟩
    rw [regRead_unmapped _ ha, if_neg hne]

/-! ### Settled -/

/-- Settles O51. -/
theorem unmappedReadsReturnZero : Obligations.UnmappedReadsReturnZero := fun s _ h => regRead_unmapped s h

/-- Settles O50, register by register. -/
theorem registersShowTheirFields : Obligations.RegistersShowTheirFields := by
  intro s hlen hcnt hcount
  obtain ⟨hcode, hok, hpresent, hlabel, hident, hzero⟩ := regStatus_fields hlen hcnt
  obtain ⟨hkeys, hkr21, hmode, hkr25, hfix⟩ := regKrinfo_fields hcount
  refine ⟨hcode, ?_, hpresent, hlabel, hident, hzero, regErr_toNat s, rfl, regKrinfo_getLsbD_valid s, hkeys, hkr21, ?_,
    hkr25, hfix, regIdOut_high s, regIdOut_low s, regIdOut_value s, regFpOut_toNat s, ?_⟩
  · rw [regRead_status, hok, s.ok_eq_true_iff]
  · rw [regRead_krinfo, hmode, decide_eq_true_iff]
  · obtain ⟨hvalid, hmatch, hmd, hver, hidx, hflag, hinfo⟩ := regInfo_fields s
    exact ⟨hvalid, hmatch, hmd, hver, hidx, hflag, hinfo, regTsLo_toNat s, regTsHi_toNat s⟩

theorem reset_bufByte_idOut (k : Nat) : bufByte State.reset.idOut k = 0 := by
  have hlist : State.reset.idOut.toList = List.replicate 16 0 := rfl
  rw [bufByte, hlist, List.getD_eq_getElem?_getD, List.getElem?_replicate]
  split <;> rfl

/-- Settles O7: a reset step answers `State.reset` with the inputs that still wait. -/
theorem resetGivesTheResetValues : Obligations.ResetGivesTheResetValues := by
  refine ⟨fun s rest h => ⟨(s.withHost rest).applyReset, by rw [step, h]; rfl, rfl, fun i => ?_, fun i => ?_, rfl, rfl,
    rfl, rfl, rfl, rfl, rfl, rfl, reset_bufByte_idOut, rfl, rfl, rfl, rfl, rfl, rfl, rfl, rfl, rfl, rfl, rfl,
    fun a => ?_⟩, fun s h => by rw [step, h]⟩
  · rw [State.applyReset_keyring, Keyring.valid, reset_slot]
    rfl
  · rw [State.applyReset_keyring, reset_slot]
    rfl
  · rw [regRead_applyReset, regRead_reset]

end Sys2Proof.Machine
end

section
/-! Secrecy (10_state.md R36, 20_memory.md R61): every command but GENERATE and DECODE takes the same branch in two
states that differ in their secrets only, and answers two such states again. -/

namespace Sys2Proof.Safety

open Sys2Proof.Machine

/-! ### Two states that differ in the secrets only -/

/-- The second state is the first with another keyring and another staging buffer. -/
theorem SameButSecrets.exists_eq {s s' : State} (h : SameButSecrets s s') :
    ∃ k g, s' = { s with keyring := k, staging := g } :=
  ⟨s'.keyring, s'.staging, by rw [← h.rest]⟩

theorem SameButSecrets.lifeCycle {s s' : State} (h : SameButSecrets s s') : s'.lifeCycle = s.lifeCycle := by
  obtain ⟨k, g, rfl⟩ := h.exists_eq
  rfl

theorem SameButSecrets.label {s s' : State} (h : SameButSecrets s s') : s'.label = s.label := by
  obtain ⟨k, g, rfl⟩ := h.exists_eq
  rfl

/-- Keyrings and staging buffers that agree in what is no secret may be put in. -/
theorem SameButSecrets.withSecrets {s s' : State} (h : SameButSecrets s s') {k k' : Keyring} {g g' : KeyStaging}
    (hvalid : k'.valid = k.valid) (hcount : k'.count = k.count) (hmode : k'.selMode = k.selMode)
    (hfix : k'.selFix = k.selFix) (hlen : g'.len = g.len) :
    SameButSecrets { s with keyring := k, staging := g } { s' with keyring := k', staging := g' } :=
  ⟨hvalid, hcount, hmode, hfix, hlen, congrArg (fun u : State => { u with keyring := k, staging := g }) h.rest⟩

/-- An update that neither reads nor writes the keyring and the staging buffer shows nothing of them. -/
theorem SameButSecrets.map {s s' : State} (h : SameButSecrets s s') (f : State → State)
    (hf : ∀ (u : State) k g, f { u with keyring := k, staging := g } = { f u with keyring := k, staging := g }) :
    SameButSecrets (f s) (f s') := by
  obtain ⟨k, g, rfl⟩ := h.exists_eq
  have hsame : SameButSecrets { f s with keyring := s.keyring, staging := s.staging }
      { f s with keyring := k, staging := g } := ⟨h.valid, h.count, h.selMode, h.selFix, h.keyBufLen, rfl⟩
  rwa [← hf, ← hf] at hsame

theorem SameButSecrets.raise {s s' : State} (h : SameButSecrets s s') (e : ErrCode) :
    SameButSecrets (s.raise e) (s'.raise e) :=
  h.map (State.raise · e) fun _ _ _ => rfl

theorem SameButSecrets.done {s s' : State} (h : SameButSecrets s s') : SameButSecrets s.done s'.done :=
  h.map State.done fun _ _ _ => rfl

/-- KRINFO shows no secret (R44). -/
theorem SameButSecrets.regKrinfo_eq {s s' : State} (h : SameButSecrets s s') : regKrinfo s = regKrinfo s' := by
  simp only [regKrinfo, validBits, h.valid, h.count, h.selMode, h.selFix]

/-- No register shows a secret. -/
theorem SameButSecrets.regRead_eq {s s' : State} (h : SameButSecrets s s') (a : Word) : regRead s a = regRead s' a := by
  have hkrinfo := h.regKrinfo_eq
  obtain ⟨k, g, rfl⟩ := h.exists_eq
  unfold regRead
  rw [hkrinfo]
  rfl

/-! ### Two outcomes that differ in the secrets only -/

/-- If the first run answers a next state, so does the second, and the two differ in the secrets only. -/
def Indistinct (o o' : Host.Outcome State Fault Refusal) : Prop :=
  ∀ t, o = .next t → ∃ t', o' = .next t' ∧ SameButSecrets t t'

theorem Indistinct.next {t t' : State} (h : SameButSecrets t t') : Indistinct (.next t) (.next t') := by
  rintro _ ⟨⟩
  exact ⟨t', rfl, h⟩

/-- A check that has the same answer in both states. -/
theorem Indistinct.ite {c c' : Prop} [Decidable c] [Decidable c'] (hc : c' ↔ c)
    {a a' b b' : Host.Outcome State Fault Refusal} (ha : Indistinct a a') (hb : Indistinct b b') :
    Indistinct (if c then a else b) (if c' then a' else b') := by
  by_cases h : c
  · rwa [if_pos h, if_pos (hc.2 h)]
  · rwa [if_neg h, if_neg (mt hc.1 h)]

/-! ### The commands -/

/-- A command that CFGERR refuses and that otherwise touches neither the keyring nor the staging buffer. -/
theorem SameButSecrets.indistinct_of_cfgErr_check {s s' : State} (h : SameButSecrets s s') (f : State → State)
    (hf : ∀ (u : State) k g, f { u with keyring := k, staging := g } = { f u with keyring := k, staging := g }) :
    Indistinct (if s.lifeCycle = .cfgErr then .next (s.raise .state) else .next (f s))
      (if s'.lifeCycle = .cfgErr then .next (s'.raise .state) else .next (f s')) :=
  .ite (by rw [h.lifeCycle]) (.next (h.raise _)) (.next (h.map f hf))

theorem SameButSecrets.execKeyrst {s s' : State} (h : SameButSecrets s s') :
    Indistinct (execKeyrst s) (execKeyrst s') :=
  .ite (by rw [h.lifeCycle]) (.next (h.raise _))
    (.next (h.done.withSecrets h.valid h.count h.selMode h.selFix rfl))

theorem SameButSecrets.execKeyput {s s' : State} (h : SameButSecrets s s') (b : Byte) :
    Indistinct (execKeyput b s) (execKeyput b s') := by
  have hlen : (s'.staging.put b).len = (s.staging.put b).len := by
    rw [KeyStaging.put_len, KeyStaging.put_len, h.keyBufLen]
  exact .ite (by rw [h.lifeCycle]) (.next (h.raise _))
    (.ite (by rw [h.keyBufLen]) (.next (h.raise _))
      (.next (h.done.withSecrets h.valid h.count h.selMode h.selFix hlen)))

theorem SameButSecrets.execKeyload {s s' : State} (h : SameButSecrets s s') (idx : Int) :
    Indistinct (execKeyload idx s) (execKeyload idx s') := by
  refine .ite (by rw [h.lifeCycle]) (.next (h.raise _)) (.ite (by rw [h.count]) (.next (h.raise _)) ?_)
  cases keyIndex idx with
  | none => exact .next (h.raise _)
  | some i =>
    have hvalid : (s'.keyring.load i s'.staging.secret).valid = (s.keyring.load i s.staging.secret).valid := by
      funext j
      rw [Keyring.load_valid, Keyring.load_valid, h.valid]
    have hcount : (s'.keyring.load i s'.staging.secret).count = (s.keyring.load i s.staging.secret).count := by
      rw [Keyring.load_count, Keyring.load_count, h.count]
    exact .ite (by rw [h.valid]) (.next (h.raise _))
      (.next (h.done.withSecrets hvalid hcount h.selMode h.selFix rfl))

theorem SameButSecrets.execSeal {s s' : State} (h : SameButSecrets s s') (sm : SelMode) (fix : BitVec 4) :
    Indistinct (execSeal sm fix s) (execSeal sm fix s') := by
  have hready := h.done.map (fun u => { u with lifeCycle := .ready }) fun _ _ _ => rfl
  exact .ite (by rw [h.lifeCycle]) (.next (h.raise _))
    (.ite (by rw [h.count]) (.next (h.raise _))
      (.ite (by rw [h.valid]) (.next (h.raise _)) (.next (hready.withSecrets h.valid h.count rfl rfl rfl))))

theorem SameButSecrets.execFprint {s s' : State} (h : SameButSecrets s s') :
    Indistinct (execFprint s) (execFprint s') := by
  refine .ite (by rw [h.lifeCycle]) (.next (h.raise _)) ?_
  have hlabel : labelOperand s'.label = labelOperand s.label := congrArg labelOperand h.label
  rw [hlabel]
  cases labelOperand s.label with
  | error e => exact .next (h.raise e)
  | ok label =>
    exact .next (h.map (fun u => { u with
      fpOut := fpValue u.cache label, cache := fpFill Config.cacheEntries u.cache label, err := 0 }) fun _ _ _ => rfl)

/-- Every command but GENERATE and DECODE hides the secrets (R36). -/
theorem SameButSecrets.exec {s s' : State} (h : SameButSecrets s s') {i : Instr} (hgen : ∀ md tl, i ≠ .generate md tl)
    (hdec : i ≠ .decode) : Indistinct (exec i s) (exec i s') := by
  cases i with
  | nop => exact .next h.done
  | keyrst => exact h.execKeyrst
  | keyput b => exact h.execKeyput b
  | keyload idx => exact h.execKeyload idx
  | sealKeyring sm fix => exact h.execSeal sm fix
  | lblrst =>
    exact h.indistinct_of_cfgErr_check (fun u => { u with label := u.label.start, err := 0 }) fun _ _ _ => rfl
  | lblput b =>
    exact h.indistinct_of_cfgErr_check (fun u => { u with label := u.label.put b, err := 0 }) fun _ _ _ => rfl
  | lblnul =>
    exact h.indistinct_of_cfgErr_check (fun u => { u with label := u.label.drop, err := 0 }) fun _ _ _ => rfl
  | idrst =>
    exact h.indistinct_of_cfgErr_check (fun u => { u with ident := u.ident.clear, err := 0 }) fun _ _ _ => rfl
  | idput b =>
    exact h.indistinct_of_cfgErr_check (fun u => { u with ident := u.ident.put b, err := 0 }) fun _ _ _ => rfl
  | idmov =>
    exact h.indistinct_of_cfgErr_check (fun u => { u with ident := u.ident.fill u.idOut, err := 0 }) fun _ _ _ => rfl
  | fprint => exact h.execFprint
  | generate md tl => exact absurd rfl (hgen md tl)
  | decode => exact absurd rfl hdec

/-- A word that `showsSecret` passes over decodes to neither GENERATE nor DECODE. -/
theorem ne_generate_decode_of_showsSecret {w : Word} {i : Instr} (hw : decodeWord w = .ok i)
    (h : showsSecret w = false) : (∀ md tl, i ≠ .generate md tl) ∧ i ≠ .decode := by
  unfold showsSecret at h
  rw [hw] at h
  refine ⟨?_, ?_⟩
  · rintro md tl rfl
    cases h
  · rintro rfl
    cases h

theorem SameButSecrets.execWord {s s' : State} (h : SameButSecrets s s') {w : Word} (hw : showsSecret w = false) :
    Indistinct (execWord w s) (execWord w s') := by
  unfold Machine.execWord
  cases hd : decodeWord w with
  | error e => exact .next (h.raise _)
  | ok i =>
    obtain ⟨hgen, hdec⟩ := ne_generate_decode_of_showsSecret hd hw
    exact h.exec hgen hdec

theorem SameButSecrets.execWords {ws : List Word} {s s' : State} (h : SameButSecrets s s')
    (hws : ∀ w ∈ ws, showsSecret w = false) : Indistinct (execWords ws s) (execWords ws s') := by
  induction ws generalizing s s' with
  | nil => exact .next h
  | cons w ws ih =>
    obtain ⟨hw, hrest⟩ := List.forall_mem_cons.1 hws
    intro t ht
    obtain ⟨u, hu, hut⟩ := execWords_cons_cases ht
    obtain ⟨u', hu', huu⟩ := h.execWord hw u hu
    obtain ⟨t', ht', htt⟩ := ih huu hrest t hut
    exact ⟨t', by rw [Machine.execWords, hu']; exact ht', htt⟩

/-- Settles O52, by induction on the words: each command takes the same branch in both states, and the registers of two
states that differ in the secrets only are equal. -/
theorem secretsStayHiddenWithoutGenerateAndDecode : Obligations.SecretsStayHiddenWithoutGenerateAndDecode := by
  intro ws s s' t h hws ht
  obtain ⟨t', ht', htt⟩ := h.execWords hws t ht
  exact ⟨t', ht', htt, htt.regRead_eq⟩

end Sys2Proof.Safety
end

section
/-! Steps and the host's pending words (20_memory.md R66, R69): a step on a waiting word is that word's command, and what
else waits has no effect on it, so that a run over the waiting words is the fold of the command rules. -/

namespace Sys2Proof.Machine

/-! ### One step on a waiting word -/

theorem execWord_of_decodeWord {w : Word} {i : Instr} (h : decodeWord w = .ok i) (s : State) :
    execWord w s = exec i s := by
  rw [execWord, h]

theorem step_of_host_command {s : State} {w : Word} {rest : List HostInput}
    (h : s.inputs.host = .command w :: rest) : step s = execWord w (s.withHost rest) := by
  simp only [step, h, takeInput]

theorem step_withFetchWord (s : State) (nbits w : Nat) :
    step (s.withFetchWord nbits w) = execWord (tableWord nbits w) (s.withHost s.inputs.host) := rfl

theorem decodeWord_tableWord {nbits w : Nat} {i : Instr} (h : decodeTableWord nbits w = some i) :
    decodeWord (tableWord nbits w) = .ok i := by
  unfold decodeTableWord at h
  split at h
  · cases h
    assumption
  · cases h

/-- Settles O6: both waiting words are the oldest input, and a word that decodes is its command. -/
theorem stepRunsTheDecodedCommand : Obligations.StepRunsTheDecodedCommand := by
  refine ⟨fun s w rest i hhost hw => ?_, fun s nbits w i hw => ?_⟩
  · rw [step_of_host_command hhost, execWord_of_decodeWord hw]
  · rw [step_withFetchWord, execWord_of_decodeWord (decodeWord_tableWord hw)]

/-! ### An outcome with its next state changed -/

/-- The outcome with `f` applied to its next state; a fault or a refusal stays. -/
def mapNext (f : State → State) : Host.Outcome State Fault Refusal → Host.Outcome State Fault Refusal
  | .next s => .next (f s)
  | .fault r => .fault r
  | .refused r => .refused r

/-- A check passes through `mapNext` when both its branches do. -/
theorem ite_eq_mapNext {c : Prop} [Decidable c] {f : State → State}
    {a a' b b' : Host.Outcome State Fault Refusal} (ha : a' = mapNext f a) (hb : b' = mapNext f b) :
    (if c then a' else b') = mapNext f (if c then a else b) := by
  rw [ha, hb, apply_ite (mapNext f)]

/-! ### Commands do not look at what else the host has waiting (R66) -/

theorem Keyring.tookSelection_with_host (k : Keyring) (p : Inputs) (q : List HostInput) :
    k.tookSelection { p with host := q } = { k.tookSelection p with host := q } := by
  unfold Keyring.tookSelection
  split <;> rfl

theorem Inputs.tookTimestamp_with_host (p : Inputs) (mode : Mode) (q : List HostInput) :
    Inputs.tookTimestamp { p with host := q } mode = { p.tookTimestamp mode with host := q } := by
  cases mode <;> rfl

theorem State.generated_withHost (s : State) (label : List Byte) (mode : Mode) (t : TagLen) (i : Fin 16)
    (q : List HostInput) : (s.withHost q).generated label mode t i = (s.generated label mode t i).withHost q := by
  unfold State.generated
  rw [State.withHost_inputs, State.withHost_keyring, Keyring.tookSelection_with_host, Inputs.tookTimestamp_with_host]
  rfl

theorem State.generate_withHost (s : State) (label : List Byte) (mode : Mode) (t : TagLen) (q : List HostInput) :
    (s.withHost q).generate label mode t = mapNext (·.withHost q) (s.generate label mode t) := by
  have hsel : (s.withHost q).keyring.select (s.withHost q).inputs.selectorValue =
      s.keyring.select s.inputs.selectorValue := rfl
  cases h : s.keyring.select s.inputs.selectorValue with
  | none =>
    simp only [State.generate, hsel, h]
    rfl
  | some i =>
    rw [generate_of_select h, generate_of_select (hsel.trans h), State.generated_withHost]
    rfl

theorem execKeyload_withHost (idx : Int) (s : State) (q : List HostInput) :
    execKeyload idx (s.withHost q) = mapNext (·.withHost q) (execKeyload idx s) := by
  refine ite_eq_mapNext rfl (ite_eq_mapNext rfl ?_)
  cases keyIndex idx with
  | none => rfl
  | some i => exact ite_eq_mapNext rfl rfl

theorem execFprint_withHost (s : State) (q : List HostInput) :
    execFprint (s.withHost q) = mapNext (·.withHost q) (execFprint s) := by
  refine ite_eq_mapNext rfl ?_
  rw [State.withHost_label]
  cases labelOperand s.label <;> rfl

theorem execGenerate_withHost (md : BitVec 2) (tl : Nat) (s : State) (q : List HostInput) :
    execGenerate md tl (s.withHost q) = mapNext (·.withHost q) (execGenerate md tl s) := by
  refine ite_eq_mapNext rfl ?_
  rw [State.withHost_label]
  cases labelOperand s.label with
  | error e => rfl
  | ok label =>
    cases modeOperand md with
    | none => rfl
    | some mode =>
      cases tagLenOperand tl with
      | none => rfl
      | some t => exact s.generate_withHost label mode t q

theorem execDecode_withHost (s : State) (q : List HostInput) :
    execDecode (s.withHost q) = mapNext (·.withHost q) (execDecode s) := by
  refine ite_eq_mapNext rfl ?_
  rw [State.withHost_ident, State.withHost_label]
  cases identOperand s.ident with
  | none => rfl
  | some buf => cases labelOperand s.label <;> rfl

/-- A command has the same outcome whatever else waits, but for the waiting inputs themselves. -/
theorem exec_withHost (i : Instr) (s : State) (q : List HostInput) :
    exec i (s.withHost q) = mapNext (·.withHost q) (exec i s) := by
  cases i with
  | nop => rfl
  | keyput b => exact ite_eq_mapNext rfl (ite_eq_mapNext rfl rfl)
  | keyload idx => exact execKeyload_withHost idx s q
  | sealKeyring sm fix => exact ite_eq_mapNext rfl (ite_eq_mapNext rfl (ite_eq_mapNext rfl rfl))
  | fprint => exact execFprint_withHost s q
  | generate md tl => exact execGenerate_withHost md tl s q
  | decode => exact execDecode_withHost s q
  | keyrst | lblrst | lblput | lblnul | idrst | idput | idmov => exact ite_eq_mapNext rfl rfl

theorem execWord_withHost (w : Word) (s : State) (q : List HostInput) :
    execWord w (s.withHost q) = mapNext (·.withHost q) (execWord w s) := by
  unfold execWord
  cases decodeWord w with
  | error e => rfl
  | ok i => exact exec_withHost i s q

/-! ### A run over the waiting words -/

/-- Settles O8, by induction on the words: a step takes the first, whose outcome does not depend on the words that wait
behind it. -/
theorem runOfPendingWordsAppliesThemInOrder : Obligations.RunOfPendingWordsAppliesThemInOrder := by
  intro ws
  induction ws with
  | nil => exact fun s => rfl
  | cons w ws ih =>
    intro s
    have hstep : core.step (s.withHost ((w :: ws).map HostInput.command)) =
        mapNext (·.withHost (ws.map HostInput.command)) (execWord w s) := execWord_withHost w s _
    simp only [List.length_cons, Host.Core.run, hstep, execWords, execWord_withHost]
    cases execWord w s with
    | next t => exact ih t
    | fault r => rfl
    | refused r => rfl

end Sys2Proof.Machine
end

section
/-! Decode and encode agree, and the decoder follows the opcode map (30_encoding.md R81, R83, R85). The fields of an
encoded word are read once per format; a row that selects a word fixes every field that its mask covers. -/

namespace Sys2Proof

open Sys2Proof.Machine Sys2Proof.Safety

/-! ### The fields of an encoded word (R81) -/

theorem append3_fields {a b c : Nat} (x : BitVec a) (y : BitVec b) (z : BitVec c) :
    (x ++ y ++ z).extractLsb' (b + c) a = x ∧ (x ++ y ++ z).extractLsb' c b = y ∧
      (x ++ y ++ z).extractLsb' 0 c = z := by
  simp [BitVec.extractLsb'_append_eq_of_le, BitVec.extractLsb'_append_eq_right]

theorem append4_fields {a b c d : Nat} (x : BitVec a) (y : BitVec b) (z : BitVec c) (u : BitVec d) :
    (x ++ y ++ z ++ u).extractLsb' (b + c + d) a = x ∧ (x ++ y ++ z ++ u).extractLsb' (c + d) b = y ∧
      (x ++ y ++ z ++ u).extractLsb' d c = z ∧ (x ++ y ++ z ++ u).extractLsb' 0 d = u := by
  simp [BitVec.extractLsb'_append_eq_of_le, BitVec.extractLsb'_append_eq_right]

theorem append5_fields {a b c d e : Nat} (x : BitVec a) (y : BitVec b) (z : BitVec c) (u : BitVec d) (v : BitVec e) :
    (x ++ y ++ z ++ u ++ v).extractLsb' (b + c + d + e) a = x ∧
      (x ++ y ++ z ++ u ++ v).extractLsb' (c + d + e) b = y ∧ (x ++ y ++ z ++ u ++ v).extractLsb' (d + e) c = z ∧
      (x ++ y ++ z ++ u ++ v).extractLsb' e d = u ∧ (x ++ y ++ z ++ u ++ v).extractLsb' 0 e = v := by
  simp [BitVec.extractLsb'_append_eq_of_le, BitVec.extractLsb'_append_eq_right]

theorem wordB_fields (op low : Byte) :
    opField (wordB op low) = op ∧ (wordB op low).extractLsb' 8 16 = 0 ∧ lowByte (wordB op low) = low :=
  append3_fields op 0#16 low

theorem encode_seal_fields (sm : SelMode) (fix : BitVec 4) {w : Word} (hw : encode (.sealKeyring sm fix) = w) :
    opField w = 0x04 ∧ w.extractLsb' 9 15 = 0 ∧ w.extractLsb' 8 1 = sm.bit ∧ w.extractLsb' 4 4 = 0 ∧
      w.extractLsb' 0 4 = fix := by
  subst hw
  exact append5_fields 0x04#8 0#15 sm.bit 0#4 fix

theorem encode_generate_fields (md : BitVec 2) (tl : Nat) {w : Word} (hw : encode (.generate md tl) = w) :
    opField w = 0x11 ∧ w.extractLsb' 10 14 = 0 ∧ w.extractLsb' 8 2 = md ∧ lowByte w = BitVec.ofNat 8 tl := by
  subst hw
  exact append4_fields 0x11#8 0#14 md (BitVec.ofNat 8 tl)

/-- An index in the range of `idx8` is what the 8-bit field reads back as (R82). -/
theorem toInt_ofInt_of_keyIndexInField {idx : Int} (h : keyIndexInField idx = true) :
    (BitVec.ofInt 8 idx).toInt = idx := by
  have hr : -128 ≤ idx ∧ idx ≤ 127 := of_decide_eq_true h
  exact BitVec.toInt_ofInt_eq_self (by decide) (by omega) (by omega)

theorem toNat_ofNat_of_tagLengthInField {tl : Nat} (h : tagLengthInField tl = true) :
    (BitVec.ofNat 8 tl).toNat = tl := by
  have hr : tl ≤ 255 := of_decide_eq_true h
  rw [BitVec.toNat_ofNat]
  exact Nat.mod_eq_of_lt (by omega)

/-! ### The two round trips -/

/-- Settles O1, format by format: the decoder reads the fields that the encoder wrote. -/
theorem decodeOfEncodeIsTheCommand : Obligations.DecodeOfEncodeIsTheCommand := by
  intro i hwf
  cases i with
  | nop | keyrst | lblrst | lblnul | idrst | idmov | fprint | decode => rfl
  | keyput b | lblput b | idput b => exact decodeWord_eq_ok_iff.2 (by simp [encode, wordB_fields])
  | keyload idx =>
    exact decodeWord_eq_ok_iff.2 (by simp [encode, wordB_fields, toInt_ofInt_of_keyIndexInField hwf])
  | sealKeyring sm fix =>
    obtain ⟨hop, hhigh, hsm, hmid, hfix⟩ := encode_seal_fields sm fix rfl
    exact decodeWord_eq_ok_iff.2 (by simp [hop, hhigh, hsm, hmid, hfix, selModeOfBit_bit])
  | generate md tl =>
    obtain ⟨hop, hhigh, hmd, htl⟩ := encode_generate_fields md tl rfl
    exact decodeWord_eq_ok_iff.2 (by simp [hop, hhigh, hmd, htl, toNat_ofNat_of_tagLengthInField hwf])

theorem keyIndexInField_toInt (b : Byte) : keyIndexInField b.toInt = true := by
  revert b
  decide

theorem tagLengthInField_toNat (b : Byte) : tagLengthInField b.toNat = true :=
  decide_eq_true (Nat.le_of_lt_succ b.isLt)

/-- The word of format S made of the fields of `w` is `w`. -/
theorem encode_seal_of_fields {w : Word} (hop : opField w = 0x04) (hmid : w.extractLsb' 4 4 = 0)
    (hhigh : w.extractLsb' 9 15 = 0) :
    encode (.sealKeyring (selModeOfBit (w.extractLsb' 8 1)) (w.extractLsb' 0 4)) = w := by
  have hw := word_of_seal_fields w
  rw [hmid, hhigh, show w.extractLsb' 24 8 = 0x04 from hop] at hw
  rw [encode, bit_selModeOfBit]
  exact hw

/-- The word of format G made of the fields of `w` is `w`. -/
theorem encode_generate_of_fields {w : Word} (hop : opField w = 0x11) (hhigh : w.extractLsb' 10 14 = 0) :
    encode (.generate (w.extractLsb' 8 2) (lowByte w).toNat) = w := by
  have hw := word_of_generate_fields w
  rw [hhigh, show w.extractLsb' 24 8 = 0x11 from hop] at hw
  rw [encode, BitVec.ofNat_toNat, BitVec.setWidth_eq]
  exact hw

theorem wordZ_of_opField {w : Word} {op : Byte} (hop : opField w = op) (hz : w.extractLsb' 0 24 = 0) : wordZ op = w :=
  hop ▸ wordZ_opField hz

theorem wordB_of_opField {w : Word} {op : Byte} (hop : opField w = op) (hz : w.extractLsb' 8 16 = 0) :
    wordB op (lowByte w) = w :=
  hop ▸ wordB_opField hz

/-- The field of KEYLOAD holds the index it is read as. -/
theorem encode_keyload_of_fields {w : Word} (hop : opField w = 0x03) (hz : w.extractLsb' 8 16 = 0) :
    encode (.keyload (lowByte w).toInt) = w := by
  rw [encode, BitVec.ofInt_toInt]
  exact wordB_of_opField hop hz

/-- Settles O2, row by row: the opcode and the clear reserved bits leave nothing of the word but its operands. -/
theorem encodeOfDecodeIsTheWord : Obligations.EncodeOfDecodeIsTheWord := by
  intro w i h
  obtain ⟨hop, hz, rfl⟩ | ⟨hop, hz, rfl⟩ | ⟨hop, hz, rfl⟩ | ⟨hop, hz, rfl⟩ | ⟨hop, ⟨hmid, hhigh⟩, rfl⟩ |
    ⟨hop, hz, rfl⟩ | ⟨hop, hz, rfl⟩ | ⟨hop, hz, rfl⟩ | ⟨hop, hz, rfl⟩ | ⟨hop, hz, rfl⟩ | ⟨hop, hz, rfl⟩ |
    ⟨hop, hz, rfl⟩ | ⟨hop, hz, rfl⟩ | ⟨hop, hz, rfl⟩ := decodeWord_eq_ok_iff.1 h
  · exact ⟨wordZ_of_opField hop hz, rfl⟩
  · exact ⟨wordZ_of_opField hop hz, rfl⟩
  · exact ⟨wordB_of_opField hop hz, rfl⟩
  · exact ⟨encode_keyload_of_fields hop hz, keyIndexInField_toInt _⟩
  · exact ⟨encode_seal_of_fields hop hmid hhigh, rfl⟩
  · exact ⟨wordZ_of_opField hop hz, rfl⟩
  · exact ⟨wordB_of_opField hop hz, rfl⟩
  · exact ⟨wordZ_of_opField hop hz, rfl⟩
  · exact ⟨wordZ_of_opField hop hz, rfl⟩
  · exact ⟨wordB_of_opField hop hz, rfl⟩
  · exact ⟨wordZ_of_opField hop hz, rfl⟩
  · exact ⟨wordZ_of_opField hop hz, rfl⟩
  · exact ⟨encode_generate_of_fields hop hz, tagLengthInField_toNat _⟩
  · exact ⟨wordZ_of_opField hop hz, rfl⟩

/-! ### The opcode map (R83) -/

/-- A field that the mask of a selected row covers is the row's own. -/
theorem field_of_selectedBy {r : OpcodeRow} {w : Word} (h : r.selectedBy w = true) {a n : Nat}
    (hm : r.mask.extractLsb' a n = BitVec.allOnes n) : w.extractLsb' a n = r.pattern.extractLsb' a n := by
  have hw : w &&& r.mask = r.pattern := beq_iff_eq.1 h
  rw [← hw, BitVec.extractLsb'_and, hm, BitVec.and_allOnes]

/-- Every row fixes the opcode. -/
theorem opField_of_selectedBy {r : OpcodeRow} {w : Word} (hr : r ∈ opcodeRows) (h : r.selectedBy w = true) :
    opField w = opField r.pattern := by
  have hm : ∀ r ∈ opcodeRows, r.mask.extractLsb' 24 8 = BitVec.allOnes 8 := by decide
  exact field_of_selectedBy h (hm r hr)

/-- No two rows of the opcode map have the same opcode. -/
theorem opcodeRows_opField_nodup : (opcodeRows.map fun r => opField r.pattern).Nodup := by decide

/-- A word selects at most one row, since the rows' opcodes differ. -/
theorem row_unique_of_selectedBy {w : Word} {r r' : OpcodeRow} (hr : r ∈ opcodeRows) (hr' : r' ∈ opcodeRows)
    (h : r.selectedBy w = true) (h' : r'.selectedBy w = true) : r = r' :=
  List.inj_on_of_nodup_map opcodeRows_opField_nodup hr hr'
    ((opField_of_selectedBy hr h).symm.trans (opField_of_selectedBy hr' h'))

/-- Every command's word selects a row that carries its mnemonic. -/
theorem exists_row_selectedBy_encode (i : Instr) : Laws.EncodeSelectsRow.Statement i := by
  cases i with
  | nop => exact Laws.EncodeSelectsRow.nop
  | keyrst => exact Laws.EncodeSelectsRow.keyrst
  | keyput b => exact Laws.EncodeSelectsRow.keyput b
  | keyload idx => exact Laws.EncodeSelectsRow.keyload idx
  | sealKeyring sm fix => exact Laws.EncodeSelectsRow.sealKeyring sm fix
  | lblrst => exact Laws.EncodeSelectsRow.lblrst
  | lblput b => exact Laws.EncodeSelectsRow.lblput b
  | lblnul => exact Laws.EncodeSelectsRow.lblnul
  | idrst => exact Laws.EncodeSelectsRow.idrst
  | idput b => exact Laws.EncodeSelectsRow.idput b
  | idmov => exact Laws.EncodeSelectsRow.idmov
  | fprint => exact Laws.EncodeSelectsRow.fprint
  | generate md tl => exact Laws.EncodeSelectsRow.generate md tl
  | decode => exact Laws.EncodeSelectsRow.decode

/-- A word that decodes selects the row of its command. -/
theorem selectedBy_of_decodeWord {w : Word} {i : Instr} (h : decodeWord w = .ok i) :
    ∃ r ∈ opcodeRows, r.selectedBy w = true ∧ r.mnemonic = mnemonic i := by
  obtain ⟨r, hr, hname, hsel⟩ := exists_row_selectedBy_encode i
  rw [(encodeOfDecodeIsTheWord w i h).1] at hsel
  exact ⟨r, hr, hsel, hname⟩

/-- A word that selects a row is the word of a command with the row's mnemonic: the mask covers the opcode and every
reserved bit, so that only the operands are left open. -/
theorem exists_encode_of_selectedBy {w : Word} {r : OpcodeRow} (hr : r ∈ opcodeRows) (h : r.selectedBy w = true) :
    ∃ i, encode i = w ∧ i.wellFormed = true ∧ mnemonic i = r.mnemonic := by
  have hop := opField_of_selectedBy hr h
  simp only [opcodeRows, List.mem_cons, List.not_mem_nil, or_false] at hr
  obtain rfl | rfl | rfl | rfl | rfl | rfl | rfl | rfl | rfl | rfl | rfl | rfl | rfl | rfl := hr
  · exact ⟨.nop, wordZ_of_opField hop (field_of_selectedBy h rfl), rfl, rfl⟩
  · exact ⟨.keyrst, wordZ_of_opField hop (field_of_selectedBy h rfl), rfl, rfl⟩
  · exact ⟨.keyput (lowByte w), wordB_of_opField hop (field_of_selectedBy h rfl), rfl, rfl⟩
  · exact ⟨.keyload _, encode_keyload_of_fields hop (field_of_selectedBy h rfl), keyIndexInField_toInt _, rfl⟩
  · exact ⟨.sealKeyring _ _, encode_seal_of_fields hop (field_of_selectedBy h rfl) (field_of_selectedBy h rfl), rfl,
      rfl⟩
  · exact ⟨.lblrst, wordZ_of_opField hop (field_of_selectedBy h rfl), rfl, rfl⟩
  · exact ⟨.lblput (lowByte w), wordB_of_opField hop (field_of_selectedBy h rfl), rfl, rfl⟩
  · exact ⟨.lblnul, wordZ_of_opField hop (field_of_selectedBy h rfl), rfl, rfl⟩
  · exact ⟨.idrst, wordZ_of_opField hop (field_of_selectedBy h rfl), rfl, rfl⟩
  · exact ⟨.idput (lowByte w), wordB_of_opField hop (field_of_selectedBy h rfl), rfl, rfl⟩
  · exact ⟨.idmov, wordZ_of_opField hop (field_of_selectedBy h rfl), rfl, rfl⟩
  · exact ⟨.fprint, wordZ_of_opField hop (field_of_selectedBy h rfl), rfl, rfl⟩
  · exact ⟨.generate _ _, encode_generate_of_fields hop (field_of_selectedBy h rfl), tagLengthInField_toNat _, rfl⟩
  · exact ⟨.decode, wordZ_of_opField hop (field_of_selectedBy h rfl), rfl, rfl⟩

/-- A word that selects a row decodes to a command with the row's mnemonic. -/
theorem decodeWord_of_selectedBy {w : Word} {r : OpcodeRow} (hr : r ∈ opcodeRows) (h : r.selectedBy w = true) :
    ∃ i, decodeWord w = .ok i ∧ mnemonic i = r.mnemonic := by
  obtain ⟨i, rfl, hwf, hname⟩ := exists_encode_of_selectedBy hr h
  exact ⟨i, decodeOfEncodeIsTheCommand i hwf, hname⟩

/-- Settles O3: the two directions and the rows' disjointness, each a lemma above. -/
theorem decoderFollowsTheOpcodeMap : Obligations.DecoderFollowsTheOpcodeMap :=
  ⟨fun _ _ hr h => decodeWord_of_selectedBy hr h, fun _ _ h => selectedBy_of_decodeWord h,
    fun _ _ _ hr hr' h h' => row_unique_of_selectedBy hr hr' h h'⟩

/-! ### Illegal words (R85) and the worked encodings (R90) -/

/-- Settles O5: a word that decodes would select its command's row. -/
theorem illegalWordRaisesIllegal : Obligations.IllegalWordRaisesIllegal := by
  intro w s hnone
  cases hw : decodeWord w with
  | ok i =>
    obtain ⟨r, hr, hsel, _⟩ := selectedBy_of_decodeWord hw
    rw [hnone r hr] at hsel
    cases hsel
  | error e =>
    rw [execWord, hw]
    rfl

/-- GENERATE with a mode and an illegal tag length, every check before it passed, raises E_TAGLEN (R175). -/
theorem execGenerate_tagLen {s : State} {md : BitVec 2} {tl : Nat} {label : List Byte} {mode : Mode}
    (hc : s.lifeCycle = .ready) (hl : labelOperand s.label = .ok label) (hm : modeOperand md = some mode)
    (ht : tagLenOperand tl = none) : execGenerate md tl s = .next (s.raise .tagLen) := by
  simp [execGenerate, hc, hl, hm, ht]

/-- Settles O4: each word evaluated, and the tag length 3 refused by the last check of GENERATE. -/
theorem workedEncodingsDecode : Obligations.WorkedEncodingsDecode := by
  refine ⟨rfl, rfl, rfl, rfl, rfl, rfl, rfl, rfl, rfl, ?_, fun s label hc hl => ?_⟩
  · intro w hw i
    simp only [List.mem_cons, List.not_mem_nil, or_false] at hw
    obtain rfl | rfl | rfl | rfl := hw <;> exact fun h => nomatch h
  · have hw : decodeWord 0x11000003 = .ok (.generate 0 3) := rfl
    rw [execWord_of_decodeWord hw]
    exact execGenerate_tagLen (md := 0) (tl := 3) hc hl rfl rfl

end Sys2Proof
end

section
/-! Sequences of commands, and the three pseudo-instructions of 30_encoding.md R89: each empties an operand buffer and
then appends its bytes one by one, so that the buffer ends at the fold of its own append. -/

namespace Sys2Proof.Machine

/-! ### Sequences of commands (20_memory.md R66, R69) -/

theorem execAll_cons {i : Instr} {s t : State} (h : exec i s = .next t) (is : List Instr) :
    execAll (i :: is) s = execAll is t := by
  rw [execAll, h]

theorem execAll_append {is : List Instr} {s t : State} (h : execAll is s = .next t) (js : List Instr) :
    execAll (is ++ js) s = execAll js t := by
  induction is generalizing s with
  | nil => cases h; rfl
  | cons i is ih =>
    rw [List.cons_append, execAll]
    rw [execAll] at h
    cases hi : exec i s with
    | next u =>
      rw [hi] at h
      exact ih h
    | fault r => rw [hi] at h; cases h
    | refused r => rw [hi] at h; cases h

/-- One command per byte, each of which appends its byte to the buffer that `set` writes, appends all of them. -/
theorem execAll_map_eq_foldl {β : Type} {f : Byte → Instr} {set : β → State} {put : β → Byte → β}
    (h : ∀ b x, exec (f b) (set x) = .next (set (put x b))) (bytes : List Byte) (x : β) :
    execAll (bytes.map f) (set x) = .next (set (bytes.foldl put x)) := by
  induction bytes generalizing x with
  | nil => rfl
  | cons b bytes ih => exact (execAll_cons (h b x) _).trans (ih (put x b))

/-! ### LABEL (43_fingerprint.md R160, R161) -/

theorem exec_lblrst {s : State} (h : s.lifeCycle ≠ .cfgErr) :
    exec .lblrst s = .next { s with label := s.label.start, err := 0 } := if_neg h

theorem exec_lblput {s : State} (h : s.lifeCycle ≠ .cfgErr) (b : Byte) :
    exec (.lblput b) s = .next { s with label := s.label.put b, err := 0 } := if_neg h

theorem execAll_pseudoLabel {s : State} (h : s.lifeCycle ≠ .cfgErr) (label : List Byte) :
    execAll (pseudoLabel label) s = .next { s with label := label.foldl LabelBuffer.put s.label.start, err := 0 } :=
  (execAll_cons (exec_lblrst h) _).trans
    (execAll_map_eq_foldl (set := fun l => { s with label := l, err := 0 })
      (fun b l => exec_lblput (s := { s with label := l, err := 0 }) h b) label _)

/-- Bytes that fit are appended to a legal label. -/
theorem labelOperand_foldl_put {l : LabelBuffer} {x : List Byte} (h : labelOperand l = .ok x) {bytes : List Byte}
    (hlen : x.length + bytes.length ≤ 255) : labelOperand (bytes.foldl LabelBuffer.put l) = .ok (x ++ bytes) := by
  induction bytes generalizing l x with
  | nil => simpa using h
  | cons b bytes ih =>
    rw [List.length_cons] at hlen
    have hput := labelOperand_put h (by omega) b
    have := ih hput (by rw [List.length_append, List.length_singleton]; omega)
    rwa [List.append_assoc] at this

/-- A byte put into a present label makes it one byte longer, up to the over-length mark 256 (R161). -/
theorem LabelBuffer.put_of_present {l : LabelBuffer} (hp : l.present = true) (b : Byte) :
    (l.put b).present = true ∧ (l.put b).len = min (l.len + 1) 256 := by
  obtain hl | hl := Nat.lt_or_ge l.len 255
  · have hput : l.put b = ⟨true, l.len + 1, putByte l.bytes l.len b⟩ := by
      simp [LabelBuffer.put, LabelBuffer.putAt, hp, Config.labelMax, hl]
    rw [hput]
    exact ⟨rfl, by simp only; omega⟩
  · rw [LabelBuffer.put_full hp hl]
    exact ⟨hp, by simp only; omega⟩

theorem LabelBuffer.foldl_put_of_present {l : LabelBuffer} (hp : l.present = true) (hl : l.len ≤ 256)
    (bytes : List Byte) : (bytes.foldl LabelBuffer.put l).present = true ∧
      (bytes.foldl LabelBuffer.put l).len = min (l.len + bytes.length) 256 := by
  induction bytes generalizing l with
  | nil => exact ⟨hp, by simpa using hl⟩
  | cons b bytes ih =>
    obtain ⟨hp', hl'⟩ := LabelBuffer.put_of_present hp b
    obtain ⟨hpres, hlen⟩ := ih hp' (by omega)
    exact ⟨hpres, by rw [List.foldl_cons, hlen, hl', List.length_cons]; omega⟩

/-- Settles O27: the bytes that fit are appended, and the length stops at 256. -/
theorem labelSequenceLoadsTheLabel : Obligations.LabelSequenceLoadsTheLabel := by
  intro label s hs
  refine ⟨_, execAll_pseudoLabel hs label, rfl, fun hlen => ?_, fun hlen => ?_⟩
  · have hok : labelOperand (label.foldl LabelBuffer.put s.label.start) = .ok label :=
      labelOperand_foldl_put (labelOperand_start _) (by simpa using hlen)
    exact ⟨hok, (labelOperand_length hok).1.symm⟩
  · obtain ⟨hp, hl⟩ := LabelBuffer.foldl_put_of_present s.label.start_present (Nat.zero_le _) label
    have hover : (label.foldl LabelBuffer.put s.label.start).len = 256 := by
      rw [hl, LabelBuffer.start_len]
      omega
    exact ⟨labelOperand_eq_error_iff.2 (.inr ⟨hp, by simp only [hover]; decide, rfl⟩), hover⟩

/-! ### IDENT (44_facade.md R171, R172) -/

theorem exec_idrst {s : State} (h : s.lifeCycle ≠ .cfgErr) :
    exec .idrst s = .next { s with ident := s.ident.clear, err := 0 } := if_neg h

theorem exec_idput {s : State} (h : s.lifeCycle ≠ .cfgErr) (b : Byte) :
    exec (.idput b) s = .next { s with ident := s.ident.put b, err := 0 } := if_neg h

theorem execAll_pseudoIdent {s : State} (h : s.lifeCycle ≠ .cfgErr) (bytes : List Byte) :
    execAll (pseudoIdent bytes) s = .next { s with ident := bytes.foldl IdBuffer.put s.ident.clear, err := 0 } :=
  (execAll_cons (exec_idrst h) _).trans
    (execAll_map_eq_foldl (set := fun d => { s with ident := d, err := 0 })
      (fun b d => exec_idput (s := { s with ident := d, err := 0 }) h b) bytes _)

/-- The bytes that IDPUT has stored since the buffer was emptied, `ID_IN[0 .. ID_CNT)`. -/
def IdBuffer.received (d : IdBuffer) : List Byte := d.bytes.toList.take d.cnt

theorem IdBuffer.put_of_lt {d : IdBuffer} (h : d.cnt < 16) (b : Byte) :
    d.put b = ⟨d.bytes.setIfInBounds d.cnt b, d.cnt + 1⟩ := if_pos h

theorem IdBuffer.put_of_ge {d : IdBuffer} (h : 16 ≤ d.cnt) (b : Byte) : d.put b = { d with cnt := 17 } :=
  if_neg (Nat.not_lt.2 h)

theorem IdBuffer.put_received {d : IdBuffer} (h : d.cnt < 16) (b : Byte) :
    (d.put b).received = d.received ++ [b] := by
  rw [IdBuffer.put_of_lt h, IdBuffer.received, IdBuffer.received, Vector.toList_setIfInBounds,
    ← List.take_append_getElem (by simpa using h), List.getElem_set_self, List.take_set_of_le le_rfl]

theorem IdBuffer.foldl_put_received {d : IdBuffer} {bytes : List Byte} (h : d.cnt + bytes.length ≤ 16) :
    (bytes.foldl IdBuffer.put d).received = d.received ++ bytes := by
  induction bytes generalizing d with
  | nil => simp
  | cons b bytes ih =>
    rw [List.length_cons] at h
    have hd : d.cnt < 16 := by omega
    have hcnt : (d.put b).cnt = d.cnt + 1 := by rw [IdBuffer.put_of_lt hd]
    rw [List.foldl_cons, ih (by omega), IdBuffer.put_received hd, List.append_assoc, List.singleton_append]

/-- The count stops at 17 (R172). -/
theorem IdBuffer.foldl_put_cnt {d : IdBuffer} (h : d.cnt ≤ 17) (bytes : List Byte) :
    (bytes.foldl IdBuffer.put d).cnt = min (d.cnt + bytes.length) 17 := by
  induction bytes generalizing d with
  | nil => simpa using h
  | cons b bytes ih =>
    have hcnt : (d.put b).cnt = min (d.cnt + 1) 17 := by
      obtain hd | hd := Nat.lt_or_ge d.cnt 16
      · rw [IdBuffer.put_of_lt hd]
        simp only
        omega
      · rw [IdBuffer.put_of_ge hd]
        simp only
        omega
    rw [List.foldl_cons, ih (d.put_cnt_le b), hcnt, List.length_cons]
    omega

/-- A complete operand is the sixteen bytes received. -/
theorem IdBuffer.received_of_full {d : IdBuffer} (h : d.cnt = 16) : d.received = d.bytes.toList := by
  rw [IdBuffer.received, h]
  exact List.take_of_length_le (by simp)

/-- Settles O35: sixteen bytes are received as they were sent, and every other number of bytes gives another count. -/
theorem identSequenceLoadsTheIdentifier : Obligations.IdentSequenceLoadsTheIdentifier := by
  intro bytes s hs
  have hcnt : (bytes.foldl IdBuffer.put s.ident.clear).cnt = min bytes.length 17 := by
    rw [IdBuffer.foldl_put_cnt (Nat.zero_le _), IdBuffer.clear_cnt, Nat.zero_add]
  refine ⟨_, execAll_pseudoIdent hs bytes, rfl, fun id hid => ?_, fun hlen => ?_⟩
  · have hlen : bytes.length = 16 := by rw [hid]; simp
    have hfull : (bytes.foldl IdBuffer.put s.ident.clear).cnt = 16 := by rw [hcnt, hlen]; rfl
    have hrec : (bytes.foldl IdBuffer.put s.ident.clear).received = bytes := by
      rw [IdBuffer.foldl_put_received (by rw [IdBuffer.clear_cnt]; omega)]
      simp [IdBuffer.received]
    rw [IdBuffer.received_of_full hfull] at hrec
    exact identOperand_eq_some_iff.2 ⟨hfull, Vector.toList_inj.1 (hid ▸ hrec)⟩
  · exact if_neg (by simp only [hcnt]; omega)

/-! ### KEY (42_keyring.md R135 to R137) -/

/-- The state after a command that completes and writes the staging buffer only. -/
def State.stage (s : State) (k : KeyStaging) : State := { s with staging := k, err := 0 }

@[simp] theorem State.stage_keyring (s : State) (k : KeyStaging) : (s.stage k).keyring = s.keyring := rfl

@[simp] theorem State.stage_staging (s : State) (k : KeyStaging) : (s.stage k).staging = k := rfl

theorem exec_keyrst {s : State} (h : s.lifeCycle = .config) : exec .keyrst s = .next (s.stage s.staging.clear) := by
  simp [exec, execKeyrst, h, State.stage]

theorem exec_keyput {s : State} (h : s.lifeCycle = .config) (hl : s.staging.len < Config.secretMax) (b : Byte) :
    exec (.keyput b) s = .next (s.stage (s.staging.put b)) := by
  simp [exec, execKeyput, h, Nat.ne_of_lt hl, State.stage]

theorem exec_keyput_full {s : State} (h : s.lifeCycle = .config) (hl : s.staging.len = Config.secretMax) (b : Byte) :
    exec (.keyput b) s = .next (s.raise .keyLen) := by
  simp [exec, execKeyput, h, hl]

theorem exec_keyput_cfgErr {s : State} (h : s.lifeCycle = .cfgErr) (b : Byte) :
    exec (.keyput b) s = .next (s.raise .state) := by
  simp [exec, execKeyput, h]

theorem exec_keyload {s : State} {i : Fin 16} (h : s.lifeCycle = .config) (hn : s.keyring.count ≠ 16)
    (hv : s.keyring.valid i = false) : exec (.keyload i.val) s =
      .next { s with keyring := s.keyring.load i s.staging.secret, staging := s.staging.clear, err := 0 } := by
  simp [exec, execKeyload, h, hn, keyIndex_eq_some_iff.2 rfl, hv]

theorem KeyStaging.foldl_put_secret (k : KeyStaging) (bytes : List Byte) :
    (bytes.foldl KeyStaging.put k).secret = k.secret ++ bytes := by
  induction bytes generalizing k with
  | nil => simp
  | cons b bytes ih => rw [List.foldl_cons, ih, KeyStaging.put_secret, List.append_assoc, List.singleton_append]

/-- The buffer that KEYRST and then one KEYPUT for each byte leave. -/
def KeyStaging.staged (k : KeyStaging) (bytes : List Byte) : KeyStaging := bytes.foldl KeyStaging.put k.clear

@[simp] theorem KeyStaging.staged_secret (k : KeyStaging) (bytes : List Byte) : (k.staged bytes).secret = bytes := by
  rw [KeyStaging.staged, KeyStaging.foldl_put_secret, KeyStaging.clear_secret, List.nil_append]

@[simp] theorem KeyStaging.staged_len (k : KeyStaging) (bytes : List Byte) : (k.staged bytes).len = bytes.length := by
  rw [← KeyStaging.secret_length, KeyStaging.staged_secret]

/-- KEYPUTs that fit the staging buffer append their bytes. -/
theorem execAll_keyput {s : State} (h : s.lifeCycle = .config) {bytes : List Byte} {k : KeyStaging}
    (hlen : k.len + bytes.length ≤ Config.secretMax) :
    execAll (bytes.map .keyput) (s.stage k) = .next (s.stage (bytes.foldl KeyStaging.put k)) := by
  induction bytes generalizing k with
  | nil => rfl
  | cons b bytes ih =>
    rw [List.length_cons] at hlen
    have hput := exec_keyput (s := s.stage k) h (by rw [State.stage_staging]; omega) b
    exact (execAll_cons hput _).trans (ih (k := k.put b) (by rw [KeyStaging.put_len]; omega))

/-- KEYRST and then KEYPUTs that fit stage exactly their bytes. -/
theorem execAll_keyrst_keyput {s : State} (h : s.lifeCycle = .config) {bytes : List Byte}
    (hlen : bytes.length ≤ Config.secretMax) :
    execAll (.keyrst :: bytes.map .keyput) s = .next (s.stage (s.staging.staged bytes)) :=
  (execAll_cons (exec_keyrst h) _).trans (execAll_keyput h (k := s.staging.clear) (by simpa using hlen))

/-- In CFGERR every KEYPUT is refused: the keyring and the recorded errors stay (R201). -/
theorem execAll_keyput_cfgErr {s : State} (h : s.lifeCycle = .cfgErr) (bytes : List Byte) :
    ∃ t, execAll (bytes.map .keyput) s = .next t ∧ t.lifeCycle = .cfgErr ∧ t.keyring = s.keyring ∧
      ∀ n, s.faults.getLsbD n = true → t.faults.getLsbD n = true := by
  induction bytes generalizing s with
  | nil => exact ⟨s, rfl, h, rfl, fun _ hn => hn⟩
  | cons b bytes ih =>
    obtain ⟨t, ht, hc, hk, hf⟩ := ih (s := s.raise .state) h
    exact ⟨t, (execAll_cons (exec_keyput_cfgErr h b) _).trans ht, hc, hk,
      fun n hn => hf n ((raised_of_not_config rfl).faults_getLsbD_mono hn)⟩

/-- On a full staging buffer the first KEYPUT raises E_KEYLEN, and the rest are refused. -/
theorem execAll_keyput_full {s : State} (h : s.lifeCycle = .config) (hl : s.staging.len = Config.secretMax) (b : Byte)
    (rest : List Byte) : ∃ t, execAll ((b :: rest).map .keyput) s = .next t ∧ t.lifeCycle = .cfgErr ∧
      t.faults.getLsbD 6 = true ∧ t.keyring = s.keyring := by
  obtain ⟨t, ht, hc, hk, hf⟩ := execAll_keyput_cfgErr (s := s.raise .keyLen) rfl rest
  have hbit : (s.raise .keyLen).faults.getLsbD 6 = true := (raised_of_config h .keyLen).faults_getLsbD_err
  exact ⟨t, (execAll_cons (exec_keyput_full h hl b) _).trans ht, hc, hf 6 hbit, hk⟩

/-- A longer list is its first `n` elements, one more, and the rest. -/
theorem exists_split_of_lt_length {bytes : List Byte} {n : Nat} (h : n < bytes.length) :
    ∃ pre b rest, bytes = pre ++ b :: rest ∧ pre.length = n :=
  ⟨bytes.take n, bytes[n], bytes.drop (n + 1), by simp, by simp [h.le]⟩

/-- KEY with a secret that fits, for an index that is not configured, commits that secret (R137). -/
theorem execAll_pseudoKey {s : State} {i : Fin 16} {secret : List Byte} (h : s.lifeCycle = .config)
    (hlen : secret.length ≤ Config.secretMax) (hn : s.keyring.count ≠ 16) (hv : s.keyring.valid i = false) :
    execAll (pseudoKey i.val secret) s =
      .next { s with keyring := s.keyring.load i secret, staging := (s.staging.staged secret).clear, err := 0 } := by
  have hload := exec_keyload (s := s.stage (s.staging.staged secret)) h hn hv
  rw [State.stage_keyring, State.stage_staging, KeyStaging.staged_secret] at hload
  rw [pseudoKey, ← List.cons_append, execAll_append (execAll_keyrst_keyput h hlen)]
  exact execAll_cons hload []

/-- Settles O22: a secret that fits is staged and committed; of a longer one the first `SECRET_MAX` bytes are staged,
the next raises E_KEYLEN, and the rest are refused. -/
theorem keySequenceLoadsTheSecret : Obligations.KeySequenceLoadsTheSecret := by
  refine fun i secret s hs => ⟨fun hlen hn hv => ?_, fun hlen => ?_⟩
  · refine ⟨_, execAll_pseudoKey hs hlen hn hv, rfl, hs, ?_, rfl, fun j hj => ?_, rfl⟩
    · exact Keyring.lookup_eq_some_iff.2 ⟨by simp [Keyring.load_valid], Keyring.load_secret _ _ _⟩
    · rw [Keyring.load_slot, if_neg hj]
  · obtain ⟨pre, b, rest, rfl, hpre⟩ := exists_split_of_lt_length hlen
    rw [List.map_append, ← List.cons_append, execAll_append (execAll_keyrst_keyput hs hpre.le)]
    exact execAll_keyput_full (s := s.stage (s.staging.staged pre)) hs ((s.staging.staged_len pre).trans hpre) b rest

end Sys2Proof.Machine
end

section
/-! The bit layout codec (40_codec.md): what `unpack` reads is said once, from how the 16 bytes are cut
(`unpack_of_toList`), so that the round trip (R113) and the flipped footer flag (R115) are the same reading of two
different cuts; the sort order (R114) is the order of big-endian numbers. -/

namespace Sys2Proof.Machine

/-! ### The info byte (R106) -/

theorem modeBit_modeOfBit (m : BitVec 1) : modeBit (modeOfBit m) = m := by revert m; decide

/-- The fields of R106 cover all eight bits. -/
theorem infoByte_of_fields (b : Byte) : infoByte (infoIndex b) (infoVersion b) (infoMode b) = b := by
  have hidx : (infoIndex b).toNat = b.toNat / 2 ^ 4 % 2 ^ 4 := extractLsb'_toNat_of rfl
  have hver : (infoVersion b).toNat = b.toNat / 2 ^ 1 % 2 ^ 3 := extractLsb'_toNat_of rfl
  have hmode : (modeBit (infoMode b)).toNat = b.toNat / 2 ^ 0 % 2 ^ 1 := by
    rw [infoMode, modeBit_modeOfBit]
    exact extractLsb'_toNat_of rfl
  have hb := b.isLt
  apply BitVec.eq_of_toNat_eq
  rw [infoByte_toNat, hidx, hver, hmode]
  omega

/-- Settles O39. -/
theorem infoByteIsABijection : Obligations.InfoByteIsABijection :=
  ⟨fun idx ver mode => ⟨infoByte_toNat idx ver mode, infoIndex_infoByte idx ver mode,
    infoVersion_infoByte idx ver mode, infoMode_infoByte idx ver mode⟩, infoByte_of_fields⟩

/-! ### What UNPACK reads (R112) -/

/-- The timestamp that `UNPACK` reports under an info byte. -/
def readTimestamp (buf : Ident) (info : Byte) : BitVec 48 :=
  match infoMode info with
  | .timeSorted => bufTimestamp buf
  | .random => 0

theorem tagLenOfFlag_footerFlag (t : TagLen) : tagLenOfFlag (footerFlag t) = t := by cases t <;> rfl

theorem bufTagLen_of_flag {buf : Ident} {t : TagLen} (h : bufFlag buf = footerFlag t) : bufTagLen buf = t := by
  rw [bufTagLen, h, tagLenOfFlag_footerFlag]

/-- The footer flag is bit 0 of the last byte, however the bytes before it are cut (R108). -/
theorem bufFlag_of_toList {buf : Ident} {front : List Byte} {last : Byte} (h : buf.toList = front ++ [last]) :
    bufFlag buf = last.getLsbD 0 := by
  have hlen : front.length = 15 := by simpa using (congrArg List.length h).symm
  rw [bufFlag, bufByte_of_toList h, ← hlen, List.getD_append_right _ _ _ _ le_rfl, Nat.sub_self]
  rfl

/-- A buffer whose flag says `t` and whose bytes are cut accordingly, `t` of them in the tag, reads as that cut. -/
theorem unpack_of_toList {buf : Ident} {t : TagLen} {front tag : List Byte} {fp info : Byte}
    (h : buf.toList = front ++ [fp, info] ++ tag) (htag : tag.length = tagBytes t)
    (hflag : bufFlag buf = footerFlag t) :
    unpack buf =
      { flag := footerFlag t, t := t, tag := tag, idx := infoIndex info, ver := infoVersion info, mode := infoMode info,
        fp := fp, ts := readTimestamp buf info, signed := front ++ [fp, info] } := by
  have hlen : front.length + (tagBytes t + 1 + 1) = 16 := by simpa [htag] using (congrArg List.length h).symm
  have hoff : offTag t = (front ++ [fp, info]).length := by simp [offTag]; omega
  have hfp : bufByte buf (offFp t) = fp := by
    have : offFp t = front.length := by unfold offFp; omega
    simp [bufByte_of_toList h, this]
  have hinfo : bufInfo buf t = info := by
    have : offInfo t = front.length + 1 := by unfold offInfo; omega
    simp [bufInfo, bufByte_of_toList h, this]
  have hrest : buf.toList.drop (offTag t) = tag := by rw [h, hoff, List.drop_left]
  have hsigned : signedBytes buf t = front ++ [fp, info] := by rw [signedBytes, h, hoff, List.take_left]
  simp only [unpack, bufTagLen_of_flag hflag, hflag, hfp, hinfo, hrest, hsigned]
  rfl

/-! ### The round trip (R113) -/

/-- The timestamp field reads back as the number it was made from (R104). -/
theorem bufTimestamp_of_toList {buf : Ident} {time : BitVec 48} {rest : List Byte}
    (h : buf.toList = toBE 6 time.toNat ++ rest) : bufTimestamp buf = time := by
  rw [bufTimestamp, h, List.take_left' (toBE_length _ _), beNat_toBE]
  exact (eq_ofNat_of_toNat_eq (Nat.mod_eq_of_lt time.isLt).symm).symm

/-- The tag field ends in a byte that carries the flag. -/
theorem tagField_eq_append_withFlag (t : TagLen) (d : List Byte) :
    ∃ front b, tagField t d = front ++ [withFlag b (footerFlag t)] := by
  cases t with
  | one => exact ⟨[], d.getD 0 0, rfl⟩
  | two => exact ⟨[d.getD 0 0], d.getD 1 0, rfl⟩

/-- `FINISH` leaves the flag of its tag length (R111). -/
theorem bufFlag_finish {p : List Byte} {t : TagLen} (h : p.length = offTag t) (d : List Byte) :
    bufFlag (finish p t d) = footerFlag t := by
  obtain ⟨front, b, hfield⟩ := tagField_eq_append_withFlag t d
  have hbytes : (finish p t d).toList = (p ++ front) ++ [withFlag b (footerFlag t)] := by
    rw [finish_toList h, hfield, List.append_assoc]
  rw [bufFlag_of_toList hbytes, withFlag_bit]

/-- `UNPACK` of a packed identifier, field by field. -/
theorem unpack_finish_prefixBytes {mode : Mode} {t : TagLen} {rb : List Byte} (h : rb.length = randomCount mode t)
    (time : BitVec 48) (fp : Byte) (idx : BitVec 4) (d : List Byte) :
    unpack (finish (prefixBytes mode time rb fp idx) t d) =
      { flag := footerFlag t, t := t, tag := tagField t d, idx := idx, ver := Config.version, mode := mode, fp := fp,
        ts := if mode = .timeSorted then time else 0, signed := prefixBytes mode time rb fp idx } := by
  have hlen := prefixBytes_length h time fp idx
  have hbytes := finish_toList hlen d
  have hts : readTimestamp (finish (prefixBytes mode time rb fp idx) t d) (infoByte idx Config.version mode) =
      if mode = .timeSorted then time else 0 := by
    rw [readTimestamp, infoMode_infoByte]
    cases mode with
    | random => rfl
    | timeSorted =>
      rw [prefixBytes, List.append_assoc, List.append_assoc] at hbytes
      exact bufTimestamp_of_toList hbytes
  rw [unpack_of_toList hbytes (tagField_length t d) (bufFlag_finish hlen d), hts, infoIndex_infoByte,
    infoVersion_infoByte, infoMode_infoByte]
  rfl

/-- Settles O36: the fields are those of `unpack_finish_prefixBytes`, and the tag field differs from the digest in the
footer flag only. -/
theorem unpackRecoversThePackedFields : Obligations.UnpackRecoversThePackedFields := by
  intro mode t time rb fp idx d hrb _
  rw [unpack_finish_prefixBytes hrb]
  refine ⟨rfl, rfl, rfl, rfl, rfl, rfl, rfl, rfl, tagField_length t d, ?_, ?_⟩
  · rintro rfl
    exact withFlag_masked (d.getD 0 0) false
  · rintro rfl
    exact ⟨rfl, withFlag_masked (d.getD 1 0) true⟩

/-! ### The sort order (R114) -/

theorem identValue_toNat (id : Ident) : (identValue id).toNat = beNat id.toList := by
  have hlt : beNat id.toList < 2 ^ 128 := by simpa using beNat_lt id.toList
  rw [identValue, BitVec.toNat_ofNat, Nat.mod_eq_of_lt hlt]

/-- A smaller leading part makes a smaller number, whatever follows. -/
theorem beNat_append_lt {a a' b b' : List Byte} (hlen : b.length = b'.length) (h : beNat a < beNat a') :
    beNat (a ++ b) < beNat (a' ++ b') := by
  have hb := beNat_lt b
  calc beNat (a ++ b) = beNat a * 256 ^ b.length + beNat b := beNat_append a b
    _ < (beNat a + 1) * 256 ^ b.length := by rw [Nat.succ_mul]; omega
    _ ≤ beNat a' * 256 ^ b.length := Nat.mul_le_mul_right _ h
    _ ≤ beNat (a' ++ b') := by rw [beNat_append, hlen]; omega

/-- On byte sequences of one length, numeric order is byte order (20_memory.md R64). -/
theorem lex_of_beNat_lt {a b : List Byte} (hlen : a.length = b.length) (h : beNat a < beNat b) :
    List.Lex (fun x y : Byte => x.toNat < y.toNat) a b := by
  induction a generalizing b with
  | nil =>
    cases List.eq_nil_of_length_eq_zero hlen.symm
    exact absurd h (Nat.lt_irrefl _)
  | cons x a ih =>
    obtain _ | ⟨y, b⟩ := b
    · cases hlen
    · have hlen' : a.length = b.length := Nat.succ.inj hlen
      rcases Nat.lt_trichotomy x.toNat y.toNat with hlt | heq | hgt
      · exact .rel hlt
      · obtain rfl := BitVec.eq_of_toNat_eq heq
        rw [beNat_cons, beNat_cons, hlen'] at h
        exact .cons (ih hlen' (Nat.lt_of_add_lt_add_left h))
      · have hrev : beNat (y :: b) < beNat (x :: a) :=
          beNat_append_lt (a := [y]) (a' := [x]) hlen'.symm (by simpa [beNat] using hgt)
        exact absurd h hrev.le.not_gt

/-- A packed TIME_SORTED identifier begins with the six bytes of its timestamp, `V[127:80] = T`; ten bytes follow. -/
theorem finish_timeSorted_toList {t : TagLen} {rb : List Byte} (h : rb.length = randomCount .timeSorted t)
    (time : BitVec 48) (fp : Byte) (idx : BitVec 4) (d : List Byte) :
    ∃ rest : List Byte, rest.length = 10 ∧
      (finish (prefixBytes .timeSorted time rb fp idx) t d).toList = toBE 6 time.toNat ++ rest := by
  have hbytes := finish_toList (prefixBytes_length h time fp idx) d
  rw [prefixBytes, List.append_assoc, List.append_assoc] at hbytes
  refine ⟨_, ?_, hbytes⟩
  have hlen := congrArg List.length hbytes
  rw [List.length_append, timestampField_length, Vector.length_toList] at hlen
  exact (Nat.add_left_cancel (n := 6) hlen).symm

/-- Settles O37: the timestamps decide the numbers, and the numbers the byte order. -/
theorem timeSortedIdentifiersSortByTime : Obligations.TimeSortedIdentifiersSortByTime := by
  intro t t' time time' rb rb' fp fp' idx idx' d d' hrb hrb' htime
  obtain ⟨rest, hrest, hbytes⟩ := finish_timeSorted_toList hrb time fp idx d
  obtain ⟨rest', hrest', hbytes'⟩ := finish_timeSorted_toList hrb' time' fp' idx' d'
  have hnum : beNat (toBE 6 time.toNat ++ rest) < beNat (toBE 6 time'.toNat ++ rest') := by
    refine beNat_append_lt (hrest.trans hrest'.symm) ?_
    rwa [beNat_toBE, beNat_toBE, Nat.mod_eq_of_lt time.isLt, Nat.mod_eq_of_lt time'.isLt]
  rw [identValue_toNat, identValue_toNat, hbytes, hbytes']
  exact ⟨hnum, lex_of_beNat_lt (by simp [hrest, hrest']) hnum⟩

/-! ### A changed footer flag (R115) -/

/-- There is at least one random byte in every layout (R102). -/
theorem randomCount_pos (mode : Mode) (t : TagLen) : 0 < randomCount mode t := by cases mode <;> cases t <;> decide

/-- Packed with `t = 1` and read with flag 1: the fingerprint is read as the info byte, the last random byte as the
fingerprint. -/
theorem unpack_of_flag_set {mode : Mode} {time : BitVec 48} {rb : List Byte} {r fp b : Byte} {idx : BitVec 4}
    {buf : Ident} (h : buf.toList = prefixBytes mode time (rb ++ [r]) fp idx ++ [withFlag b true]) :
    unpack buf =
      { flag := true, t := .two, tag := [infoByte idx Config.version mode, withFlag b true], idx := infoIndex fp,
        ver := infoVersion fp, mode := infoMode fp, fp := r, ts := readTimestamp buf fp,
        signed := timestampField mode time ++ rb ++ [r, fp] } := by
  have hflag : bufFlag buf = footerFlag .two := (bufFlag_of_toList h).trans (withFlag_bit b true)
  exact unpack_of_toList (t := .two) (by simpa [prefixBytes] using h) rfl hflag

/-- Packed with `t = 2` and read with flag 0: the first tag byte is read as the info byte, the info byte as the
fingerprint. -/
theorem unpack_of_flag_cleared {mode : Mode} {time : BitVec 48} {rb : List Byte} {fp a b : Byte} {idx : BitVec 4}
    {buf : Ident} (h : buf.toList = prefixBytes mode time rb fp idx ++ [a, withFlag b false]) :
    unpack buf =
      { flag := false, t := .one, tag := [withFlag b false], idx := infoIndex a, ver := infoVersion a,
        mode := infoMode a, fp := infoByte idx Config.version mode, ts := readTimestamp buf a,
        signed := timestampField mode time ++ rb ++ [fp] ++ [infoByte idx Config.version mode, a] } := by
  have hlast : buf.toList = (prefixBytes mode time rb fp idx ++ [a]) ++ [withFlag b false] := by simpa using h
  have hflag : bufFlag buf = footerFlag .one := (bufFlag_of_toList hlast).trans (withFlag_bit b false)
  exact unpack_of_toList (t := .one) (by simpa [prefixBytes] using h) rfl hflag

/-- Settles O38: each clause is the same 16 bytes cut one byte earlier or later. -/
theorem flippedFooterFlagShiftsTheLayout : Obligations.FlippedFooterFlagShiftsTheLayout := by
  refine ⟨fun mode time rb fp idx d buf hrb _ hbuf => ?_, fun mode time rb fp idx d buf _ _ hbuf => ?_⟩
  · have hne : rb ≠ [] := List.ne_nil_of_length_pos (hrb ▸ randomCount_pos mode .one)
    obtain ⟨rb, r, rfl⟩ := rb.eq_nil_or_concat'.resolve_left hne
    rw [unpack_of_flag_set hbuf]
    refine ⟨rfl, rfl, rfl, rfl, rfl, by simp, ?_⟩
    have hcut : prefixBytes mode time (rb ++ [r]) fp idx =
        (timestampField mode time ++ rb ++ [r, fp]) ++ [infoByte idx Config.version mode] := by simp [prefixBytes]
    have hlen : (timestampField mode time ++ rb ++ [r, fp]).length = 14 := by
      have hprefix := prefixBytes_length hrb time fp idx
      rw [hcut, List.length_append] at hprefix
      exact Nat.succ.inj hprefix
    rw [hcut, List.take_left' hlen]
  · rw [unpack_of_flag_cleared hbuf]
    exact ⟨rfl, rfl, rfl, rfl, rfl, rfl, by simp [prefixBytes]⟩

end Sys2Proof.Machine
end

section
/-! The keyed digest (41_digest.md): with the bytes before the tag and the footer flag fixed, at most one buffer has a good
tag (R124), whatever the digest. R128 is the contrapositive. -/

namespace Sys2Proof.Machine

/-! ### What a good tag says (R124) -/

theorem tagOk_one_iff {digest : List Byte → List Byte} {buf : Ident} {secret : List Byte} :
    tagOk digest buf .one secret = true ↔
      bufByte buf 15 &&& tagMask = (keyedDigest digest secret (signedBytes buf .one)).getD 0 0 &&& tagMask := by
  simp only [tagOk, beq_iff_eq]

theorem tagOk_two_iff {digest : List Byte → List Byte} {buf : Ident} {secret : List Byte} :
    tagOk digest buf .two secret = true ↔
      bufByte buf 14 = (keyedDigest digest secret (signedBytes buf .two)).getD 0 0 ∧
      bufByte buf 15 &&& tagMask = (keyedDigest digest secret (signedBytes buf .two)).getD 1 0 &&& tagMask := by
  simp only [tagOk, Bool.and_eq_true, beq_iff_eq]

/-! ### The bytes of a buffer, by what fixes them -/

/-- The signed bytes are the buffer's bytes before the tag (R122). -/
theorem bufByte_eq_of_signedBytes_eq {a b : Ident} {t : TagLen} (h : signedBytes a t = signedBytes b t) {n : Nat}
    (hn : n < offTag t) : bufByte a n = bufByte b n := by
  have hread : ∀ buf : Ident, bufByte buf n = (signedBytes buf t).getD n 0 := fun buf => by
    simp [bufByte, signedBytes, List.getD_eq_getElem?_getD, List.getElem?_take_of_lt hn]
  rw [hread a, hread b, h]

/-- The tag mask and bit 0 together cover a byte (R109). -/
theorem withFlag_getLsbD_zero (b : Byte) : withFlag b (b.getLsbD 0) = b := by revert b; decide

/-- Byte 15 is its masked tag bits and the footer flag. -/
theorem bufByte_last_eq {a b : Ident} (hmask : bufByte a 15 &&& tagMask = bufByte b 15 &&& tagMask)
    (hflag : bufFlag a = bufFlag b) : bufByte a 15 = bufByte b 15 :=
  calc bufByte a 15
    _ = (bufByte a 15 &&& tagMask) ||| (if bufFlag a then 1 else 0) := (withFlag_getLsbD_zero _).symm
    _ = (bufByte b 15 &&& tagMask) ||| (if bufFlag b then 1 else 0) := by rw [hmask, hflag]
    _ = bufByte b 15 := withFlag_getLsbD_zero _

/-! ### One good buffer for each prefix and flag -/

/-- Two good buffers with the same signed bytes have the same digest, so the tag leaves no bit free but the footer
flag. -/
theorem eq_of_tagOk {digest : List Byte → List Byte} {a b : Ident} {t : TagLen} {secret : List Byte}
    (ha : tagOk digest a t secret = true) (hb : tagOk digest b t secret = true)
    (hsigned : signedBytes a t = signedBytes b t) (hflag : bufFlag a = bufFlag b) : a = b := by
  refine ident_ext fun n hn => ?_
  by_cases hsignedByte : n < offTag t
  · exact bufByte_eq_of_signedBytes_eq hsigned hsignedByte
  cases t with
  | one =>
    rw [tagOk_one_iff] at ha hb
    obtain rfl : n = 15 := by simp only [offTag, tagBytes] at hsignedByte; omega
    exact bufByte_last_eq (by rw [ha, hb, hsigned]) hflag
  | two =>
    rw [tagOk_two_iff] at ha hb
    obtain ⟨ha14, ha15⟩ := ha
    obtain ⟨hb14, hb15⟩ := hb
    obtain rfl | rfl : n = 14 ∨ n = 15 := by simp only [offTag, tagBytes] at hsignedByte; omega
    · rw [ha14, hb14, hsigned]
    · exact bufByte_last_eq (by rw [ha15, hb15, hsigned]) hflag

/-- Settles O40: if the changed buffer were good too, it would be the same buffer. -/
theorem changedTagBitsAreRejected : Obligations.ChangedTagBitsAreRejected :=
  fun _ _ _ _ _ hgood hsigned hflag hne =>
    Bool.eq_false_iff.mpr fun hgood' => hne (eq_of_tagOk hgood' hgood hsigned hflag)

end Sys2Proof.Machine
end

section
/-! Keyring construction (42_keyring.md R134 to R140): the outcome of each keyring command, branch by branch, what a run
of KEYLOADs of distinct indices leaves, and SELECT. A command outside its row of the legality table (60_exceptions.md
R207) is refused by one argument for all of them. -/

namespace Sys2Proof.Machine

open Sys2Proof.Safety

/-! ### Commands refused by the life cycle (R207) -/

theorem State.raise_state (s : State) : s.raise .state = { s with err := 2, faults := s.faults ||| 0x00000004 } := rfl

/-- The check of the life cycle stands first in every command but NOP. -/
theorem exec_of_not_legalIn {i : Instr} {s : State} (h : legalIn i s.lifeCycle = false) :
    exec i s = .next (s.raise .state) := by
  cases i with
  | nop => cases h
  | keyrst | keyput | keyload | sealKeyring | generate | decode => exact if_pos (by simpa [legalIn] using h)
  | lblrst | lblput | lblnul | idrst | idput | idmov | fprint =>
    exact if_pos (by revert h; cases s.lifeCycle <;> simp [legalIn])

/-- A command that is legal in CONFIG only, as the keyring commands are, raises E_STATE elsewhere. -/
theorem exec_of_config_only {i : Instr} {s : State} (h : s.lifeCycle ≠ .config)
    (hi : ∀ c, legalIn i c = (c == .config)) :
    exec i s = .next { s with err := 2, faults := s.faults ||| 0x00000004 } :=
  s.raise_state ▸ exec_of_not_legalIn (by rw [hi]; exact beq_false_of_ne h)

theorem refusesIdentifiers_of_not_ready {s : State} (h : s.lifeCycle ≠ .ready) : RefusesIdentifiers s :=
  ⟨fun _ _ => exec_of_not_legalIn (by simpa [legalIn] using h), exec_of_not_legalIn (by simpa [legalIn] using h)⟩

/-! ### The words of the keyring commands (30_encoding.md R81) -/

/-- A word of format B or K as its opcode plus its operand. -/
theorem wordB_eq_add (op low : Byte) : wordB op low = wordZ op + low.setWidth 32 := by
  apply BitVec.eq_of_toNat_eq
  have hop := op.isLt
  have hlow := low.isLt
  simp only [wordB, wordZ, BitVec.toNat_append, BitVec.toNat_add, BitVec.toNat_setWidth, BitVec.toNat_ofNat,
    Nat.zero_mod, Nat.or_zero]
  rw [← Nat.shiftLeft_add_eq_or_of_lt hlow]
  simp only [Nat.shiftLeft_eq]
  omega

theorem encode_keyput_eq_add (b : Byte) : encode (.keyput b) = 0x02000000 + b.setWidth 32 := wordB_eq_add 0x02 b

theorem encode_keyload_eq_add (idx : Int) :
    encode (.keyload idx) = 0x03000000 + BitVec.ofNat 32 (idx % 256).toNat := by
  have hlow : (BitVec.ofInt 8 idx).setWidth 32 = BitVec.ofNat 32 (idx % 256).toNat := by
    apply BitVec.eq_of_toNat_eq
    simp
  rw [← hlow]
  exact wordB_eq_add 0x03 _

theorem encode_seal_eq_add (sm : SelMode) (fix : BitVec 4) :
    encode (.sealKeyring sm fix) = encode (.sealKeyring sm 0) + fix.setWidth 32 := by
  cases sm <;> (revert fix; decide)

/-! ### KEYLOAD and SEAL, branch by branch (R137, R139) -/

theorem exec_keyload_count {s : State} (h : s.lifeCycle = .config) (hn : s.keyring.count = 16) (idx : Int) :
    exec (.keyload idx) s = .next (s.raise .krCount) := by
  simp [exec, execKeyload, h, hn]

theorem exec_keyload_index {s : State} (h : s.lifeCycle = .config) (hn : s.keyring.count ≠ 16) {idx : Int}
    (hi : idx < 0 ∨ 15 < idx) : exec (.keyload idx) s = .next (s.raise .krIndex) := by
  simp [exec, execKeyload, h, hn, keyIndex_eq_none_iff.2 hi]

theorem exec_keyload_dup {s : State} (h : s.lifeCycle = .config) (hn : s.keyring.count ≠ 16) {i : Fin 16}
    (hv : s.keyring.valid i = true) : exec (.keyload i.val) s = .next (s.raise .krDup) := by
  simp [exec, execKeyload, h, hn, keyIndex_eq_some_iff.2 rfl, hv]

theorem exec_seal_empty {s : State} (h : s.lifeCycle = .config) (hn : s.keyring.count = 0) (sm : SelMode)
    (fix : BitVec 4) : exec (.sealKeyring sm fix) s = .next (s.raise .krCount) := by
  simp [exec, execSeal, h, hn]

theorem exec_seal_unconfigured {s : State} (h : s.lifeCycle = .config) (hn : s.keyring.count ≠ 0) {fix : BitVec 4}
    (hv : s.keyring.valid (slotOf fix) = false) : exec (.sealKeyring .fixed fix) s = .next (s.raise .sel) := by
  simp [exec, execSeal, h, hn, hv]

theorem exec_seal {s : State} (h : s.lifeCycle = .config) (hn : s.keyring.count ≠ 0) {sm : SelMode} {fix : BitVec 4}
    (hf : sm = .fixed → s.keyring.valid (slotOf fix) = true) : exec (.sealKeyring sm fix) s =
      .next { s with
        keyring := s.keyring.setSelector sm fix, staging := s.staging.clear, lifeCycle := .ready, err := 0 } := by
  have hsel : ¬ (sm = .fixed ∧ s.keyring.valid (slotOf fix) = false) := fun ⟨hm, hv⟩ => by simp [hf hm] at hv
  simp [exec, execSeal, h, hn, hsel]

/-! ### The keyring commands settled -/

/-- Settles O18. -/
theorem keyrstEmptiesTheStagingBuffer : Obligations.KeyrstEmptiesTheStagingBuffer :=
  ⟨rfl, fun _ => ⟨exec_keyrst, fun h => exec_of_config_only h fun _ => rfl⟩⟩

/-- Settles O19: the byte put is the last of the staged secret. -/
theorem keyputAppendsOrRaisesKeyLen : Obligations.KeyputAppendsOrRaisesKeyLen := by
  refine fun b => ⟨?_, fun s => ⟨fun h => exec_of_config_only h fun _ => rfl, fun h hl => exec_keyput_full h hl b,
    fun h hl => ⟨_, exec_keyput h hl b, KeyStaging.put_secret _ b, rfl, rfl⟩⟩⟩
  rw [← encode_keyput_eq_add]
  exact decodeOfEncodeIsTheCommand _ rfl

/-- Settles O20: the checks in their order, and then the frame of `Keyring.load`. -/
theorem keyloadCommitsTheStagedSecret : Obligations.KeyloadCommitsTheStagedSecret := by
  refine ⟨fun idx hlow hhigh => ?_, fun idx s => ⟨fun h => exec_of_config_only h fun _ => rfl,
    fun h hn => exec_keyload_count h hn idx, fun h hn hi => exec_keyload_index h hn hi⟩,
    fun i s h hn => ⟨fun hv => exec_keyload_dup h hn hv, fun hv => ?_⟩⟩
  · rw [← encode_keyload_eq_add]
    exact decodeOfEncodeIsTheCommand _ (decide_eq_true ⟨hlow, hhigh⟩)
  · refine ⟨_, exec_keyload h hn hv, ?_, Keyring.load_secret _ _ _, ?_, rfl, fun j hj => ?_, rfl, rfl, rfl⟩
    · rw [Keyring.load_valid, if_pos rfl]
    · rw [Keyring.load_slot, if_pos rfl, KeyStaging.secret_length]
    · rw [Keyring.load_slot, if_neg hj]

/-- Settles O21: the checks in their order, and then the write of the selector configuration for each policy. -/
theorem sealValidatesAndFixesThePolicy : Obligations.SealValidatesAndFixesThePolicy := by
  refine fun fix => ⟨?_, ?_, fun s => ⟨fun _ h => exec_of_config_only h fun _ => rfl,
    fun sm h hn => exec_seal_empty h hn sm fix, fun h hn hv => exec_seal_unconfigured h hn hv,
    fun h hn => exec_seal h hn nofun, fun h hn hv => exec_seal h hn fun _ => hv⟩⟩
  · exact encode_seal_eq_add .random fix ▸ decodeOfEncodeIsTheCommand (.sealKeyring .random fix) rfl
  · exact encode_seal_eq_add .fixed fix ▸ decodeOfEncodeIsTheCommand (.sealKeyring .fixed fix) rfl

/-! ### Construction from reset (R140) -/

/-- What loading the indices `is` in CONFIG leaves: still CONFIG, no error, and exactly these slots added. -/
structure Loads (is : List (Fin 16)) (s t : State) : Prop where
  lifeCycle : t.lifeCycle = .config
  faults : t.faults = s.faults
  count : t.keyring.count = s.keyring.count + is.length
  valid_iff : ∀ i, t.keyring.valid i = true ↔ i ∈ is ∨ s.keyring.valid i = true

/-- KEYLOADs of distinct indices that are not configured yet, 16 at most with those loaded before, all complete. -/
theorem execAll_keyload {is : List (Fin 16)} {s : State} (h : s.lifeCycle = .config) (hnd : is.Nodup)
    (hnew : ∀ i ∈ is, s.keyring.valid i = false) (hlen : s.keyring.count + is.length ≤ 16) :
    ∃ t, execAll (is.map fun i => .keyload i.val) s = .next t ∧ Loads is s t := by
  induction is generalizing s with
  | nil => exact ⟨s, rfl, h, rfl, rfl, by simp⟩
  | cons i is ih =>
    obtain ⟨hi, hnd⟩ := List.nodup_cons.1 hnd
    rw [List.length_cons] at hlen
    have hload := exec_keyload h (by omega) (hnew i List.mem_cons_self)
    obtain ⟨t, ht, hl⟩ := ih (s := { s with
        keyring := s.keyring.load i s.staging.secret, staging := s.staging.clear, err := 0 }) h hnd
      (fun j hj => by
        rw [Keyring.load_valid, if_neg (ne_of_mem_of_not_mem hj hi)]
        exact hnew j (List.mem_cons_of_mem i hj))
      (by rw [Keyring.load_count]; omega)
    refine ⟨t, (execAll_cons hload _).trans ht, hl.lifeCycle, hl.faults, ?_, fun j => ?_⟩
    · rw [hl.count, Keyring.load_count, List.length_cons]
      omega
    · rw [hl.valid_iff, Keyring.load_valid, List.mem_cons]
      by_cases hj : j = i <;> simp [hj]

theorem reset_valid (i : Fin 16) : State.reset.keyring.valid i = false := by
  rw [Keyring.valid, reset_slot]
  rfl

/-- There are 16 indices, so any distinct ones can be loaded from reset. -/
theorem execAll_keyload_reset {is : List (Fin 16)} (hnd : is.Nodup) :
    ∃ t, execAll (is.map fun i => .keyload i.val) State.reset = .next t ∧ Loads is State.reset t := by
  refine execAll_keyload rfl hnd (fun i _ => reset_valid i) ?_
  simpa [State.reset] using hnd.length_le_card

/-- Settles O23: the loads complete (`execAll_keyload_reset`), and what follows them is one branch of KEYLOAD or SEAL. -/
theorem keyringConstructionIsValidated : Obligations.KeyringConstructionIsValidated := by
  refine ⟨fun is hne hnd => ?_, fun is idx hlen hnd => ?_, fun idx hi => ?_, fun sm fix => ?_⟩
  · obtain ⟨t, ht, hl⟩ := execAll_keyload_reset hnd
    have hcount : t.keyring.count = is.length := hl.count.trans (Nat.zero_add _)
    have hn : t.keyring.count ≠ 0 := hcount ▸ mt List.length_eq_zero_iff.1 hne
    have hseal := exec_seal (sm := .random) (fix := 0) hl.lifeCycle hn nofun
    refine ⟨_, (execAll_append ht _).trans (execAll_cons hseal []), rfl, rfl, hl.faults, hcount, fun i => ?_⟩
    exact (hl.valid_iff i).trans (by simp [reset_valid])
  · obtain ⟨t, ht, hl⟩ := execAll_keyload_reset hnd
    have hn : t.keyring.count = 16 := hl.count.trans (by rw [hlen]; rfl)
    exact ⟨_, (execAll_append ht _).trans (execAll_cons (exec_keyload_count hl.lifeCycle hn idx) []), rfl, rfl,
      refusesIdentifiers_of_not_ready nofun⟩
  · exact ⟨_, exec_keyload_index rfl (by decide) hi, rfl, rfl, refusesIdentifiers_of_not_ready nofun⟩
  · exact ⟨_, exec_seal_empty rfl rfl sm fix, rfl, rfl, refusesIdentifiers_of_not_ready nofun⟩

/-! ### SELECT (R134) -/

theorem Keyring.select_fixed {k : Keyring} (h : k.selMode = .fixed) (port : Fin 16) :
    k.select port = some (slotOf k.selFix) := by
  rw [Keyring.select, h]

theorem Keyring.select_random {k : Keyring} (h : k.selMode = .random) (port : Fin 16) :
    k.select port = drawSel k.valid port := by
  rw [Keyring.select, h]

/-- Settles O24, policy by policy; under the random one the port that shows a configured index draws it. -/
theorem selectReturnsAConfiguredIndex : Obligations.SelectReturnsAConfiguredIndex := by
  intro k j hj hfix
  cases hm : k.selMode with
  | fixed =>
    exact ⟨fun port => ⟨_, Keyring.select_fixed hm port, hfix hm, fun _ => rfl⟩, nofun⟩
  | random =>
    refine ⟨fun port => ?_, fun _ => ⟨j, (Keyring.select_random hm j).trans (drawSel_of_valid hj)⟩⟩
    obtain ⟨i, hi, hv⟩ := drawSel_isSome hj port
    exact ⟨i, (Keyring.select_random hm port).trans hi, hv, nofun⟩

end Sys2Proof.Machine
end

section
/-! The checksum (43_fingerprint.md R150, R152): every shift of the inner loop is linear over exclusive-or, so `CRC8`
is, and its other properties are evaluations and one step more of the fold. -/

namespace Sys2Proof.Machine

/-! ### Linearity -/

/-- What a shift adds in for the bit it shifts out (R150). -/
def crcCarry (carry : Bool) : Byte := if carry then crcPoly else 0

theorem crcShift_eq (c : Byte) : crcShift c = (c <<< 1) ^^^ crcCarry c.msb := by
  unfold crcShift crcCarry
  cases c.msb <;> simp

theorem crcCarry_xor : ∀ m n : Bool, crcCarry (m ^^ n) = crcCarry m ^^^ crcCarry n := by decide

theorem crcShift_xor (a b : Byte) : crcShift (a ^^^ b) = crcShift a ^^^ crcShift b := by
  simp only [crcShift_eq, BitVec.shiftLeft_xor_distrib, BitVec.msb_xor, crcCarry_xor]
  ac_rfl

theorem crcTable_xor (a b : Byte) : crcTable (a ^^^ b) = crcTable a ^^^ crcTable b := by
  simp only [crcTable, crcShift_xor]

theorem crcStep_xor (c d a b : Byte) : crcStep (c ^^^ d) (a ^^^ b) = crcStep c a ^^^ crcStep d b := by
  have hswap : c ^^^ d ^^^ (a ^^^ b) = (c ^^^ a) ^^^ (d ^^^ b) := by ac_rfl
  rw [crcStep, hswap, crcTable_xor, crcStep, crcStep]

theorem foldl_crcStep_zipWith_xor {a b : List Byte} (h : a.length = b.length) (c d : Byte) :
    (a.zipWith (· ^^^ ·) b).foldl crcStep (c ^^^ d) = a.foldl crcStep c ^^^ b.foldl crcStep d := by
  induction a generalizing b c d with
  | nil =>
    obtain rfl := List.length_eq_zero_iff.1 h.symm
    rfl
  | cons x a ih =>
    cases b with
    | nil => cases h
    | cons y b =>
      rw [List.zipWith_cons_cons, List.foldl_cons, crcStep_xor]
      exact ih (Nat.succ.inj h) _ _

theorem crc8_zipWith_xor {a b : List Byte} (h : a.length = b.length) :
    crc8 (a.zipWith (· ^^^ ·) b) = crc8 a ^^^ crc8 b := foldl_crcStep_zipWith_xor h crcInit crcInit

/-! ### The recurrence and the zeros -/

theorem crc8_append_singleton (l : List Byte) (b : Byte) : crc8 (l ++ [b]) = crcStep (crc8 l) b := by
  rw [crc8, List.foldl_append]
  rfl

/-- The initial value is 0, so one byte's checksum is its entry of the table. -/
theorem crc8_singleton (b : Byte) : crc8 [b] = crcTable b := congrArg crcTable BitVec.zero_xor

theorem crcStep_self (c : Byte) : crcStep c c = 0 := by
  rw [crcStep, BitVec.xor_self]
  decide

theorem crc8_replicate_zero (n : Nat) : crc8 (List.replicate n 0) = 0 := by
  induction n with
  | zero => rfl
  | succ n ih => rw [List.replicate_succ', crc8_append_singleton, ih, crcStep_self]

/-- Settles O30. The remainder of a sequence followed by its own checksum is a step of a byte on itself. -/
theorem crcHasTheListedProperties : Obligations.CrcHasTheListedProperties :=
  ⟨rfl, crc8_replicate_zero, by decide, by decide, by decide, crc8_append_singleton,
    fun c b => (crc8_singleton (c ^^^ b)).symm, by decide, fun _ _ => crc8_zipWith_xor,
    fun l => (crc8_append_singleton l _).trans (crcStep_self _), by decide, by decide⟩

end Sys2Proof.Machine
end

section
/-! The label operand and FPRINT (43_fingerprint.md R154 to R163): the outcome of each label command, the label checks
the three commands share, and what a lookup in a consistent cache answers. -/

namespace Sys2Proof.Machine

open Sys2Proof.Safety

/-! ### Errors of the family, written out (60_exceptions.md R200) -/

theorem State.raise_nullLabel (s : State) :
    s.raise .nullLabel = { s with err := 8, faults := s.faults ||| 0x00000100 } := rfl

theorem State.raise_labelLen (s : State) :
    s.raise .labelLen = { s with err := 9, faults := s.faults ||| 0x00000200 } := rfl

/-- In CFGERR every command but NOP raises E_STATE (R207). -/
theorem exec_of_cfgErr {i : Instr} {s : State} (h : s.lifeCycle = .cfgErr) (hi : legalIn i .cfgErr = false) :
    exec i s = .next { s with err := 2, faults := s.faults ||| 0x00000004 } :=
  s.raise_state ▸ exec_of_not_legalIn (h ▸ hi)

/-! ### The label commands (R160 to R162) -/

theorem exec_lblnul {s : State} (h : s.lifeCycle ≠ .cfgErr) :
    exec .lblnul s = .next { s with label := s.label.drop, err := 0 } := if_neg h

theorem encode_lblput_eq_add (b : Byte) : encode (.lblput b) = 0x09000000 + b.setWidth 32 := wordB_eq_add 0x09 b

theorem LabelBuffer.put_len_of_ok {l : LabelBuffer} {label : List Byte} (h : labelOperand l = .ok label)
    (hl : label.length < 255) (b : Byte) : (l.put b).len = l.len + 1 := by
  rw [← (labelOperand_length (labelOperand_put h hl b)).1, ← (labelOperand_length h).1]
  simp

theorem LabelBuffer.put_len_of_absent {l : LabelBuffer} (h : l.present = false) (b : Byte) : (l.put b).len = 1 :=
  (labelOperand_length (labelOperand_put_absent h b)).1.symm

/-- Settles O25. -/
theorem lblrstStartsAndLblnulWithdraws : Obligations.LblrstStartsAndLblnulWithdraws :=
  ⟨rfl, rfl, fun _ => ⟨fun h => ⟨exec_lblrst h, exec_lblnul h⟩,
    fun h => ⟨exec_of_cfgErr h rfl, exec_of_cfgErr h rfl⟩⟩⟩

/-- Settles O26, by what `LabelBuffer.put` does to a label with room, to an absent one and to a full one. -/
theorem lblputAppendsStartsOrMarksOverlength : Obligations.LblputAppendsStartsOrMarksOverlength := by
  refine fun b => ⟨?_, fun s => ⟨fun h => exec_of_cfgErr h rfl, fun label h hok hl => ?_, fun h habsent => ?_,
    fun h hp hl => ?_⟩⟩
  · rw [← encode_lblput_eq_add]
    exact decodeOfEncodeIsTheCommand (.lblput b) rfl
  · exact ⟨_, exec_lblput h b, labelOperand_put hok hl b, LabelBuffer.put_len_of_ok hok hl b, rfl⟩
  · exact ⟨_, exec_lblput h b, labelOperand_put_absent habsent b, LabelBuffer.put_len_of_absent habsent b, rfl⟩
  · rw [exec_lblput h, LabelBuffer.put_full hp hl]

/-! ### The label checks of FPRINT, GENERATE and DECODE (R154) -/

theorem labelOperand_absent {l : LabelBuffer} (h : l.present = false) : labelOperand l = .error .nullLabel :=
  labelOperand_eq_error_iff.2 (.inl ⟨h, rfl⟩)

theorem labelOperand_overlength {l : LabelBuffer} (hp : l.present = true) (hl : 255 < l.len) :
    labelOperand l = .error .labelLen :=
  labelOperand_eq_error_iff.2 (.inr ⟨hp, hl, rfl⟩)

theorem slice_getD {buf : ByteBuf} {n k : Nat} (h : k < n) : (slice buf n).getD k 0 = buf.getD k 0 := by
  simp only [slice, List.getD_eq_getElem?_getD, List.getElem?_append, List.length_take, List.getElem?_replicate]
  by_cases hk : k < buf.length
  · simp [h, hk]
  · have hzero : k - min n buf.length < n - buf.length := by omega
    simp [hk, hzero]

theorem exec_fprint_labelError {s : State} {e : ErrCode} (h : s.lifeCycle ≠ .cfgErr)
    (he : labelOperand s.label = .error e) : exec .fprint s = .next (s.raise e) := by
  simp [exec, execFprint, h, he]

/-- GENERATE checks its label before its mode and its tag length (60_exceptions.md R198). -/
theorem exec_generate_labelError {s : State} {e : ErrCode} (h : s.lifeCycle = .ready)
    (he : labelOperand s.label = .error e) (md : BitVec 2) (tl : Nat) :
    exec (.generate md tl) s = .next (s.raise e) := by
  simp [exec, execGenerate, h, he]

theorem exec_decode_labelError {s : State} {e : ErrCode} (h : s.lifeCycle = .ready) (hn : s.ident.cnt = 16)
    (he : labelOperand s.label = .error e) : exec .decode s = .next (s.raise e) := by
  simp [exec, execDecode, h, identOperand, hn, he]

/-- Settles O28: an absent and an over-length label are the two errors of CHECK_LABEL, and each command raises what it
answers. -/
theorem labelPreconditionsAreChecked : Obligations.LabelPreconditionsAreChecked := by
  refine fun s => ⟨fun habsent => ?_, fun hp hl => ?_, fun hp hl => ?_⟩
  · have he := labelOperand_absent habsent
    rw [← State.raise_nullLabel]
    exact ⟨fun h => exec_fprint_labelError h he, fun md tl h => exec_generate_labelError h he md tl,
      fun h hn => exec_decode_labelError h hn he⟩
  · have he := labelOperand_overlength hp hl
    rw [← State.raise_labelLen]
    exact ⟨fun h => exec_fprint_labelError h he, fun md tl h => exec_generate_labelError h he md tl,
      fun h hn => exec_decode_labelError h hn he⟩
  · exact ⟨_, labelOperand_eq_ok_iff.2 ⟨hp, hl, rfl⟩, slice_length _ _, fun k hk => slice_getD hk⟩

/-! ### FPRINT (R155 to R157, R163) -/

theorem fpFill_of_hit {cache : List CacheEntry} {label : List Byte} (h : ∃ e ∈ cache, e.label = label)
    (entries : Nat) : fpFill entries cache label = cache := by
  obtain ⟨e, he, hlabel⟩ := h
  obtain heq | ⟨_, _, hmiss⟩ := fpFill_cases entries cache label
  · exact heq
  · exact absurd hlabel (hmiss e he)

theorem fpFill_of_miss {cache : List CacheEntry} {label : List Byte} (h : ∀ e ∈ cache, e.label ≠ label)
    (entries : Nat) : fpFill entries cache label =
      if cache.length < entries then cache ++ [⟨label, crc8 label⟩] else cache := by
  rw [fpFill, cacheHit_eq_none_iff.2 h]

/-- With a consistent cache FPRINT writes the checksum itself (R158). -/
theorem exec_fprint {s : State} {label : List Byte} (h : s.lifeCycle ≠ .cfgErr)
    (hl : labelOperand s.label = .ok label) (hc : CacheConsistent s.cache) : exec .fprint s =
      .next { s with fpOut := crc8 label, cache := fpFill Config.cacheEntries s.cache label, err := 0 } := by
  rw [← fpValue_eq_crc8 hc.1 label]
  simp [exec, execFprint, h, hl]

/-- Settles O29: the checks in their order, and then the lookup, hit or miss. -/
theorem fprintReportsTheChecksum : Obligations.FprintReportsTheChecksum := by
  refine ⟨rfl, fun s => ⟨fun h => exec_of_cfgErr h rfl, fun h habsent => ?_, fun h hp hl => ?_,
    fun label h hl hc => ?_⟩⟩
  · exact exec_fprint_labelError h (labelOperand_absent habsent)
  · exact exec_fprint_labelError h (labelOperand_overlength hp hl)
  · exact ⟨_, exec_fprint h hl hc, fun hhit => fpFill_of_hit hhit _, fun hmiss => fpFill_of_miss hmiss _⟩

end Sys2Proof.Machine
end

section
/-! The cache is transparent (43_fingerprint.md R157, R158): a run appends to the cache or leaves it, and in two states
that differ in their consistent caches only, every command takes the same branch and writes the same values but for the
cache. -/

namespace Sys2Proof.Machine

open Sys2Proof.Safety

/-! ### Append only (R157) -/

theorem prefix_fpFill (entries : Nat) (cache : List CacheEntry) (label : List Byte) :
    cache <+: fpFill entries cache label := by
  obtain heq | ⟨heq, _, _⟩ := fpFill_cases entries cache label
  · rw [heq]
  · rw [heq]
    exact List.prefix_append _ _

theorem Raised.cache_eq {s t : State} (h : Raised s t) : t.cache = s.cache := by
  obtain ⟨e, _, rfl⟩ := h
  rfl

theorem Completes.cache_prefix {i : Instr} {s t : State} (h : Completes i s t) : s.cache <+: t.cache := by
  obtain heq | ⟨label, _, heq⟩ := h.cache_eq_or_fill
  · rw [heq]
  · rw [heq]
    exact prefix_fpFill _ _ _

theorem execWord_cache_prefix {w : Word} {s t : State} (h : execWord w s = .next t) : s.cache <+: t.cache := by
  obtain hr | ⟨i, _, hc⟩ := execWord_outcome h
  · rw [hr.cache_eq]
  · exact hc.cache_prefix

theorem execWords_cache_prefix {ws : List Word} {s t : State} (h : execWords ws s = .next t) : s.cache <+: t.cache :=
  execWords_keeps (P := fun u => s.cache <+: u.cache) (fun _ _ _ hu hx => hu.trans (execWord_cache_prefix hx))
    (List.prefix_refl _) h

/-! ### Two outcomes that differ in the cache only -/

/-- The same state with another cache. -/
def State.withCache (s : State) (c : List CacheEntry) : State := { s with cache := c }

@[simp] theorem State.withCache_cache (s : State) (c : List CacheEntry) : (s.withCache c).cache = c := rfl

@[simp] theorem State.withCache_label (s : State) (c : List CacheEntry) : (s.withCache c).label = s.label := rfl

@[simp] theorem State.withCache_ident (s : State) (c : List CacheEntry) : (s.withCache c).ident = s.ident := rfl

/-- The second outcome is the first with another cache in its next state; a fault or a refusal is the same. -/
def SameButCache (o o' : Host.Outcome State Fault Refusal) : Prop := ∃ c, o' = mapNext (·.withCache c) o

theorem SameButCache.next (s : State) (c : List CacheEntry) : SameButCache (.next s) (.next (s.withCache c)) :=
  ⟨c, rfl⟩

/-- A check that does not look at the cache. -/
theorem SameButCache.ite {p : Prop} [Decidable p] {a a' b b' : Host.Outcome State Fault Refusal}
    (ha : SameButCache a a') (hb : SameButCache b b') : SameButCache (if p then a else b) (if p then a' else b') := by
  by_cases h : p
  · rwa [if_pos h, if_pos h]
  · rwa [if_neg h, if_neg h]

/-! ### The commands that look a fingerprint up (R156, R158) -/

/-- `FP(L)` does not depend on what is cached. -/
theorem fpValue_eq_of_consistent {c c' : List CacheEntry} (h : CacheConsistent c) (h' : CacheConsistent c')
    (label : List Byte) : fpValue c' label = fpValue c label :=
  (fpValue_eq_crc8 h'.1 label).trans (fpValue_eq_crc8 h.1 label).symm

section
variable {s : State} {c : List CacheEntry} (hs : CacheConsistent s.cache) (hc : CacheConsistent c)
include hs hc

theorem execFprint_withCache : SameButCache (execFprint s) (execFprint (s.withCache c)) := by
  refine .ite (.next _ c) ?_
  rw [State.withCache_label, State.withCache_cache]
  cases labelOperand s.label with
  | error e => exact .next _ c
  | ok label =>
    simp only [fpValue_eq_of_consistent hs hc label]
    exact .next _ (fpFill Config.cacheEntries c label)

theorem execDecode_withCache : SameButCache (execDecode s) (execDecode (s.withCache c)) := by
  refine .ite (.next _ c) ?_
  rw [State.withCache_ident, State.withCache_label, State.withCache_cache]
  cases identOperand s.ident with
  | none => exact .next _ c
  | some buf =>
    cases labelOperand s.label with
    | error e => exact .next _ c
    | ok label =>
      simp only [fpValue_eq_of_consistent hs hc label]
      exact .next _ (fpFill Config.cacheEntries c label)

theorem generated_withCache (label : List Byte) (mode : Mode) (t : TagLen) (i : Fin 16) :
    (s.withCache c).generated label mode t i =
      (s.generated label mode t i).withCache (fpFill Config.cacheEntries c label) := by
  simp only [State.generated, State.withCache_cache, fpValue_eq_of_consistent hs hc label]
  rfl

theorem generate_withCache (label : List Byte) (mode : Mode) (t : TagLen) :
    SameButCache (s.generate label mode t) ((s.withCache c).generate label mode t) := by
  have hsel : (s.withCache c).keyring.select (s.withCache c).inputs.selectorValue =
      s.keyring.select s.inputs.selectorValue := rfl
  cases h : s.keyring.select s.inputs.selectorValue with
  | none =>
    simp only [State.generate, hsel, h]
    exact ⟨c, rfl⟩
  | some i =>
    rw [generate_of_select h, generate_of_select (hsel.trans h), generated_withCache hs hc]
    exact .next _ _

theorem execGenerate_withCache (md : BitVec 2) (tl : Nat) :
    SameButCache (execGenerate md tl s) (execGenerate md tl (s.withCache c)) := by
  refine .ite (.next _ c) ?_
  rw [State.withCache_label]
  cases labelOperand s.label with
  | error e => exact .next _ c
  | ok label =>
    cases modeOperand md with
    | none => exact .next _ c
    | some mode =>
      cases tagLenOperand tl with
      | none => exact .next _ c
      | some t => exact generate_withCache hs hc label mode t

/-! ### Every command and every word (R158) -/

theorem exec_withCache (i : Instr) : SameButCache (exec i s) (exec i (s.withCache c)) := by
  cases i with
  | nop => exact .next _ c
  | keyput b => exact .ite (.next _ c) (.ite (.next _ c) (.next _ c))
  | keyload idx =>
    refine .ite (.next _ c) (.ite (.next _ c) ?_)
    cases keyIndex idx with
    | none => exact .next _ c
    | some i => exact .ite (.next _ c) (.next _ c)
  | sealKeyring sm fix => exact .ite (.next _ c) (.ite (.next _ c) (.ite (.next _ c) (.next _ c)))
  | fprint => exact execFprint_withCache hs hc
  | generate md tl => exact execGenerate_withCache hs hc md tl
  | decode => exact execDecode_withCache hs hc
  | keyrst | lblrst | lblput | lblnul | idrst | idput | idmov => exact .ite (.next _ c) (.next _ c)

theorem execWord_withCache (w : Word) : SameButCache (execWord w s) (execWord w (s.withCache c)) := by
  unfold execWord
  cases decodeWord w with
  | error e => exact .next _ c
  | ok i => exact exec_withCache hs hc i

end

/-- Both caches stay consistent (R30), so the next word meets two consistent caches again. -/
theorem execWords_withCache {ws : List Word} {s t : State} {c : List CacheEntry} (hs : CacheConsistent s.cache)
    (hc : CacheConsistent c) (h : execWords ws s = .next t) :
    ∃ c', execWords ws (s.withCache c) = .next (t.withCache c') := by
  induction ws generalizing s c with
  | nil =>
    cases h
    exact ⟨c, rfl⟩
  | cons w ws ih =>
    obtain ⟨u, hu, ht⟩ := execWords_cons_cases h
    obtain ⟨d, hd⟩ := execWord_withCache hs hc w
    rw [hu] at hd
    obtain ⟨_, hkeeps⟩ := cacheInvariantIsPreserved
    obtain ⟨c', hc'⟩ := ih (hkeeps w s u hs hu) (hkeeps w _ _ hc hd) ht
    exact ⟨c', by rw [execWords, hd]; exact hc'⟩

/-- Settles O32, its second half by induction on the words: the two runs stay in states that differ in their consistent
caches only. -/
theorem cacheIsTransparentAndAppendOnly : Obligations.CacheIsTransparentAndAppendOnly := by
  refine ⟨fun ws s t h => ?_, fun ws s t c hs hc h => execWords_withCache hs hc h⟩
  obtain ⟨more, hmore⟩ := execWords_cache_prefix h
  exact ⟨more, hmore.symm⟩

end Sys2Proof.Machine
end

section
/-! The facade's commands (44_facade.md R170 to R177): the outcome of each, branch by branch, in terms of one named state
for a GENERATE and one for a DECODE that completes, and the operand errors in their order (60_exceptions.md R198). -/

namespace Sys2Proof.Machine

open Sys2Proof.Safety

/-! ### Errors of the family, written out (R200) -/

theorem State.raise_mode (s : State) : s.raise .mode = { s with err := 10, faults := s.faults ||| 0x00000400 } := rfl

theorem State.raise_tagLen (s : State) : s.raise .tagLen = { s with err := 11, faults := s.faults ||| 0x00000800 } := rfl

theorem State.raise_nullId (s : State) : s.raise .nullId = { s with err := 12, faults := s.faults ||| 0x00001000 } := rfl

/-! ### NOP, IDRST, IDMOV (R170, R171, R173) -/

theorem exec_idmov {s : State} (h : s.lifeCycle ≠ .cfgErr) :
    exec .idmov s = .next { s with ident := s.ident.fill s.idOut, err := 0 } := if_neg h

/-- Bit 2 of STATUS is `OK`, whatever the other fields hold (10_state.md R41). -/
theorem regStatus_getLsbD_ok (s : State) : (regStatus s).getLsbD 2 = s.ok := by
  have hv := regStatus_toNat s
  have hcode := s.lifeCycle.code.isLt
  have hok := s.ok.toNat_lt
  exact getLsbD_eq_of (by omega)

/-- Settles O33. -/
theorem nopIdrstIdmovEffects : Obligations.NopIdrstIdmovEffects := by
  refine ⟨rfl, rfl, rfl, fun s => ⟨⟨rfl, ?_⟩, fun h => ⟨exec_idrst h, exec_idmov h⟩,
    fun h => ⟨exec_of_cfgErr h rfl, exec_of_cfgErr h rfl⟩⟩⟩
  rw [regRead_status, regStatus_getLsbD_ok, State.ok_eq_true_iff]

/-! ### IDPUT (R172) -/

theorem encode_idput_eq_add (b : Byte) : encode (.idput b) = 0x0D000000 + b.setWidth 32 := wordB_eq_add 0x0D b

theorem bufByte_setIfInBounds_self (buf : Ident) {n : Nat} (h : n < 16) (b : Byte) :
    bufByte (buf.setIfInBounds n b) n = b := by
  simp [bufByte, Vector.toList_setIfInBounds, h]

theorem bufByte_setIfInBounds_ne (buf : Ident) {n k : Nat} (h : k ≠ n) (b : Byte) :
    bufByte (buf.setIfInBounds n b) k = bufByte buf k := by
  simp [bufByte, Vector.toList_setIfInBounds, List.getElem?_set_ne h.symm]

/-- Settles O34, by what `IdBuffer.put` does to a buffer with room and to a full one. -/
theorem idputStoresOrMarksMalformed : Obligations.IdputStoresOrMarksMalformed := by
  refine fun b => ⟨?_, fun s => ⟨fun h => exec_of_cfgErr h rfl, fun h hroom => ?_, fun h hfull => ?_⟩⟩
  · rw [← encode_idput_eq_add]
    exact decodeOfEncodeIsTheCommand (.idput b) rfl
  · refine ⟨_, exec_idput h b, ?_⟩
    rw [IdBuffer.put_of_lt hroom]
    exact ⟨rfl, bufByte_setIfInBounds_self _ hroom b, fun k hk => bufByte_setIfInBounds_ne _ hk b, rfl⟩
  · rw [exec_idput h, IdBuffer.put_of_ge hfull]

/-! ### GENERATE (R175) -/

/-- Outside the two modes of R82 no mode was supplied. -/
theorem modeOperand_eq_none_iff {md : BitVec 2} : modeOperand md = none ↔ 2 ≤ md.toNat := by
  revert md
  decide

theorem tagLenOperand_eq_none {tl : Nat} (h1 : tl ≠ 1) (h2 : tl ≠ 2) : tagLenOperand tl = none := by
  cases h : tagLenOperand tl with
  | none => rfl
  | some t =>
    cases t with
    | one => exact absurd (tagLenOperand_eq_some_iff.1 h) h1
    | two => exact absurd (tagLenOperand_eq_some_iff.1 h) h2

/-- GENERATE with a legal label checks its mode next, before its tag length (R198). -/
theorem exec_generate_modeError {s : State} {label : List Byte} {md : BitVec 2} (h : s.lifeCycle = .ready)
    (hl : labelOperand s.label = .ok label) (hm : modeOperand md = none) (tl : Nat) :
    exec (.generate md tl) s = .next (s.raise .mode) := by
  simp [exec, execGenerate, h, hl, hm]

/-- Settles O43: the mode is refused for any tag length, and an accepted mode leaves the tag length to refuse. -/
theorem generateErrorsComeInOrder : Obligations.GenerateErrorsComeInOrder := by
  refine fun md tl s label h hl => ⟨fun hmd => ?_, fun hmd h1 h2 => ?_⟩
  · exact s.raise_mode ▸ exec_generate_modeError h hl (modeOperand_eq_none_iff.2 hmd) tl
  · have hsome : modeOperand md ≠ none := fun hm => absurd (modeOperand_eq_none_iff.1 hm) (Nat.not_le.2 hmd)
    obtain ⟨mode, hm⟩ := Option.ne_none_iff_exists'.1 hsome
    exact s.raise_tagLen ▸ execGenerate_tagLen h hl hm (tagLenOperand_eq_none h1 h2)

/-- GENERATE with every check passed is steps 3 to 10 of R175. -/
theorem exec_generate_eq {s : State} {label : List Byte} (h : s.lifeCycle = .ready)
    (hl : labelOperand s.label = .ok label) (mode : Mode) (t : TagLen) :
    exec (.generate ((modeBit mode).setWidth 2) (tagBytes t)) s = s.generate label mode t := by
  simp [exec, execGenerate, h, hl, modeOperand_modeBit, tagLenOperand_tagBytes]

theorem exec_generate {s : State} {label : List Byte} {i : Fin 16} (h : s.lifeCycle = .ready)
    (hl : labelOperand s.label = .ok label) (hi : s.keyring.select s.inputs.selectorValue = some i) (mode : Mode)
    (t : TagLen) :
    exec (.generate ((modeBit mode).setWidth 2) (tagBytes t)) s = .next (s.generated label mode t i) :=
  (exec_generate_eq h hl mode t).trans (generate_of_select hi)

/-! ### DECODE (R177) -/

/-- Steps 3 to 7 of DECODE, once both operands are there. -/
def State.decoded (s : State) (label : List Byte) : State :=
  { s with
    result := decodeResult Config.digest s.keyring (fpValue s.cache label) s.ident.bytes
    cache := fpFill Config.cacheEntries s.cache label
    err := 0 }

theorem exec_decode {s : State} {label : List Byte} (h : s.lifeCycle = .ready) (hn : s.ident.cnt = 16)
    (hl : labelOperand s.label = .ok label) : exec .decode s = .next (s.decoded label) := by
  simp [exec, execDecode, State.decoded, h, identOperand, hn, hl]

/-- A DECODE that ends without error has decoded. -/
theorem exec_decode_cases {s u : State} (h : exec .decode s = .next u) (hu : u.err = 0) :
    ∃ label, s.lifeCycle = .ready ∧ s.ident.cnt = 16 ∧ labelOperand s.label = .ok label ∧ u = s.decoded label := by
  obtain hr | hc := exec_cases h
  · exact absurd hu hr.err_ne_zero
  · cases hc with
    | decode hready hb hl =>
      obtain ⟨hn, rfl⟩ := identOperand_eq_some_iff.1 hb
      exact ⟨_, hready, hn, hl, rfl⟩

/-- Settles O45. -/
theorem decodeWithoutIdentifierRaisesNullId : Obligations.DecodeWithoutIdentifierRaisesNullId := by
  intro s h hn
  rw [← State.raise_nullId]
  simp [exec, execDecode, h, identOperand, hn]

/-- `FP(L)` answers the same after it has filled the cache, also where the cache held another value for `L` (R156). -/
theorem fpValue_fpFill (entries : Nat) (cache : List CacheEntry) (label : List Byte) :
    fpValue (fpFill entries cache label) label = fpValue cache label := by
  obtain heq | ⟨heq, _, hmiss⟩ := fpFill_cases entries cache label
  · rw [heq]
  · have hnone : cacheHit cache label = none := cacheHit_eq_none_iff.2 hmiss
    have hhit : cacheHit (cache ++ [⟨label, crc8 label⟩]) label = some ⟨label, crc8 label⟩ := by
      rw [cacheHit, List.find?_append, show cache.find? _ = none from hnone]
      simp
    rw [heq, fpValue, hhit, fpValue, hnone]

/-- Settles O46: a DECODE writes none of its operands, and its own fill does not move the fingerprint. -/
theorem decodeIsRepeatable : Obligations.DecodeIsRepeatable := by
  intro s u h hu
  obtain ⟨label, hready, hn, hl, rfl⟩ := exec_decode_cases h hu
  refine ⟨rfl, _, exec_decode hready hn hl, rfl, ?_⟩
  exact congrArg (decodeResult Config.digest s.keyring · s.ident.bytes) (fpValue_fpFill _ s.cache label)

end Sys2Proof.Machine
end

section
/-! An identifier as a 128-bit number (40_codec.md R100, R103): the bits of a byte are the eight bits of the number at the
byte's position, so that the fields UNPACK reads from bytes are bit ranges of the number, and DECODE (44_facade.md R177,
R178) reports these. -/

namespace Sys2Proof.Machine

open Sys2Proof.Safety

/-! ### Bits of a byte as bits of the number -/

theorem ident_toList_cut (buf : Ident) {k : Nat} (hk : k < 16) :
    buf.toList = buf.toList.take k ++ [bufByte buf k] ++ buf.toList.drop (k + 1) := by
  have hbyte : bufByte buf k = buf.toList[k]'(by simpa using hk) := by
    rw [bufByte, List.getD_eq_getElem]
  rw [hbyte, List.take_append_getElem, List.take_append_drop]

theorem identValue_getLsbD (buf : Ident) {k j : Nat} (hk : k < 16) (hj : j < 8) :
    (identValue buf).getLsbD (8 * (15 - k) + j) = (bufByte buf k).getLsbD j := by
  have hrest : (buf.toList.drop (k + 1)).length = 15 - k := by simp
  have hpow : 256 ^ (15 - k) = 2 ^ (8 * (15 - k)) := by rw [Nat.pow_mul]
  have hlow : beNat (buf.toList.drop (k + 1)) < 2 ^ (8 * (15 - k)) := by
    rw [← hpow, ← hrest]
    exact beNat_lt _
  have hvalue : (identValue buf).toNat =
      2 ^ (8 * (15 - k)) * (2 ^ 8 * beNat (buf.toList.take k) + (bufByte buf k).toNat) +
        beNat (buf.toList.drop (k + 1)) := by
    rw [identValue_toNat, ident_toList_cut buf hk, beNat_append, beNat_append, hrest, hpow, ← ident_toList_cut buf hk,
      List.length_singleton, Nat.mul_comm, Nat.mul_comm (beNat _)]
    simp [beNat]
  rw [BitVec.getLsbD, hvalue, Nat.testBit_two_pow_mul_add _ hlow, if_neg (by omega), Nat.add_sub_cancel_left,
    Nat.testBit_two_pow_mul_add _ (bufByte buf k).isLt, if_pos hj, BitVec.getLsbD]

/-- A bit range inside byte `k`, as the same range of the number. -/
theorem identValue_extractLsb' (buf : Ident) {k a n : Nat} (hk : k < 16) (h : a + n ≤ 8) :
    (identValue buf).extractLsb' (8 * (15 - k) + a) n = (bufByte buf k).extractLsb' a n := by
  apply BitVec.eq_of_getLsbD_eq
  intro j hj
  have hbit := identValue_getLsbD buf hk (j := a + j) (by omega)
  rw [BitVec.getLsbD_extractLsb', BitVec.getLsbD_extractLsb', Nat.add_assoc, hbit]

theorem identValue_getLsbD_zero (buf : Ident) : (identValue buf).getLsbD 0 = bufFlag buf :=
  identValue_getLsbD buf (k := 15) (j := 0) (by decide) (by decide)

/-- `V[127:80]` is the big-endian number of the first six bytes. -/
theorem identValue_timestamp (buf : Ident) : (identValue buf).extractLsb' 80 48 = bufTimestamp buf := by
  have hlow := beNat_lt (buf.toList.drop 6)
  have hlen : (buf.toList.drop 6).length = 10 := by simp
  have hvalue := beNat_append (buf.toList.take 6) (buf.toList.drop 6)
  rw [List.take_append_drop, ← identValue_toNat, hlen] at hvalue
  rw [hlen] at hlow
  apply BitVec.eq_of_toNat_eq
  rw [bufTimestamp, BitVec.toNat_ofNat]
  exact extractLsb'_toNat_of (by omega)

/-! ### The fields of UNPACK as bit ranges (R103) -/

/-- How far a second tag byte moves the fields up. -/
def fieldShift (flag : Bool) : Nat := if flag then 8 else 0

/-- The fields stand above the tag bytes. -/
theorem fieldShift_add (buf : Ident) : 8 + fieldShift (bufFlag buf) = 8 * tagBytes (bufTagLen buf) := by
  rw [bufTagLen]
  cases bufFlag buf <;> rfl

theorem tagBytes_range (t : TagLen) : 1 ≤ tagBytes t ∧ tagBytes t ≤ 2 := by cases t <;> decide

theorem identValue_info (buf : Ident) {a n : Nat} (h : a + n ≤ 8) :
    (identValue buf).extractLsb' (8 + a + fieldShift (bufFlag buf)) n =
      (bufInfo buf (bufTagLen buf)).extractLsb' a n := by
  have hshift := fieldShift_add buf
  obtain ⟨hlow, hhigh⟩ := tagBytes_range (bufTagLen buf)
  have hpos : 8 + a + fieldShift (bufFlag buf) = 8 * (15 - offInfo (bufTagLen buf)) + a := by
    rw [offInfo]
    omega
  rw [hpos]
  exact identValue_extractLsb' buf (by rw [offInfo]; omega) h

theorem identValue_idx (buf : Ident) :
    (identValue buf).extractLsb' (12 + fieldShift (bufFlag buf)) 4 = (unpack buf).idx :=
  identValue_info buf (a := 4) (by decide)

theorem identValue_ver (buf : Ident) :
    (identValue buf).extractLsb' (9 + fieldShift (bufFlag buf)) 3 = (unpack buf).ver :=
  identValue_info buf (a := 1) (by decide)

theorem identValue_mode (buf : Ident) :
    modeOfBit ((identValue buf).extractLsb' (8 + fieldShift (bufFlag buf)) 1) = (unpack buf).mode :=
  congrArg modeOfBit (identValue_info buf (a := 0) (by decide))

theorem identValue_fp (buf : Ident) :
    (identValue buf).extractLsb' (16 + fieldShift (bufFlag buf)) 8 = (unpack buf).fp := by
  have hshift := fieldShift_add buf
  obtain ⟨hlow, hhigh⟩ := tagBytes_range (bufTagLen buf)
  have hpos : 16 + fieldShift (bufFlag buf) = 8 * (15 - offFp (bufTagLen buf)) + 0 := by
    rw [offFp]
    omega
  rw [hpos, identValue_extractLsb' buf (by rw [offFp]; omega) le_rfl]
  exact BitVec.extractLsb'_eq_self

/-- The timestamp is read under the mode bit (R112). -/
theorem identValue_ts (buf : Ident) :
    (if (identValue buf).extractLsb' (8 + fieldShift (bufFlag buf)) 1 = 1 then (identValue buf).extractLsb' 80 48
      else 0) = (unpack buf).ts := by
  have hbit : (identValue buf).extractLsb' (8 + fieldShift (bufFlag buf)) 1 =
      (bufInfo buf (bufTagLen buf)).extractLsb' 0 1 := identValue_info buf (a := 0) (by decide)
  have hts : (unpack buf).ts = readTimestamp buf (bufInfo buf (bufTagLen buf)) := rfl
  rw [hbit, identValue_timestamp, hts, readTimestamp, infoMode, modeOfBit]
  split <;> rfl

/-! ### The valid tag (R109, R124, R178) -/

/-- Masked bytes are equal exactly when their effective tag bits are. -/
theorem and_tagMask_eq_iff (x y : Byte) : x &&& tagMask = y &&& tagMask ↔ x.extractLsb' 1 7 = y.extractLsb' 1 7 := by
  have hmask : ∀ b : Byte, b &&& tagMask = b.extractLsb' 1 7 ++ 0#1 := by decide
  have hbits : ∀ b : Byte, (b &&& tagMask).extractLsb' 1 7 = b.extractLsb' 1 7 := by decide
  refine ⟨fun h => ?_, fun h => ?_⟩
  · rw [← hbits, h, hbits]
  · rw [hmask, hmask, h]

theorem identValue_lastTagBits (buf : Ident) : (identValue buf).extractLsb' 1 7 = (bufByte buf 15).extractLsb' 1 7 :=
  identValue_extractLsb' buf (k := 15) (a := 1) (by decide) (by decide)

theorem identValue_firstTagByte (buf : Ident) : (identValue buf).extractLsb' 8 8 = bufByte buf 14 :=
  (identValue_extractLsb' buf (k := 14) (a := 0) (by decide) le_rfl).trans BitVec.extractLsb'_eq_self

/-- `TAGOK` under the tag length that the footer flag says, on the effective tag bits of the number. -/
theorem tagOk_iff_tagBits {digest : List Byte → List Byte} {buf : Ident} {secret d : List Byte}
    (hd : d = keyedDigest digest secret (signedBytes buf (bufTagLen buf))) :
    tagOk digest buf (bufTagLen buf) secret = true ↔
      (bufFlag buf = false → (identValue buf).extractLsb' 1 7 = (d.getD 0 0).extractLsb' 1 7) ∧
      (bufFlag buf = true → (identValue buf).extractLsb' 8 8 = d.getD 0 0 ∧
        (identValue buf).extractLsb' 1 7 = (d.getD 1 0).extractLsb' 1 7) := by
  rw [identValue_lastTagBits, identValue_firstTagByte, ← and_tagMask_eq_iff, ← and_tagMask_eq_iff, hd]
  cases hflag : bufFlag buf with
  | false =>
    have ht : bufTagLen buf = .one := bufTagLen_of_flag hflag
    simp [ht, tagOk_one_iff]
  | true =>
    have ht : bufTagLen buf = .two := bufTagLen_of_flag hflag
    simp [ht, tagOk_two_iff]

/-- The three conjuncts of R178. -/
theorem validTag_eq_true_iff {digest : List Byte → List Byte} {k : Keyring} {buf : Ident} :
    validTag digest k buf = true ↔ (unpack buf).ver = 1 ∧ k.valid (slotOf (unpack buf).idx) = true ∧
      tagOk digest buf (unpack buf).t (k.secret (slotOf (unpack buf).idx)) = true := by
  rw [validTag, Keyring.lookup]
  cases hv : k.valid (slotOf (unpack buf).idx) with
  | false => simp
  | true => simp [Config.version]

/-! ### DECODE -/

/-- Settles O44: the fields that UNPACK reads are the bit ranges, and the valid tag is its three conjuncts. -/
theorem decodeReportsTheBitFields : Obligations.DecodeReportsTheBitFields := by
  intro s label hready hn hl hcache
  refine ⟨_, exec_decode hready hn hl, rfl, ?_⟩
  intro v n d
  have hflag : v.getLsbD 0 = bufFlag s.ident.bytes := identValue_getLsbD_zero _
  have hshift : n = fieldShift (bufFlag s.ident.bytes) := by rw [← hflag]; rfl
  have hidx : v.extractLsb' (12 + n) 4 = (unpack s.ident.bytes).idx := hshift ▸ identValue_idx _
  have hver : v.extractLsb' (9 + n) 3 = (unpack s.ident.bytes).ver := hshift ▸ identValue_ver _
  have hmode : modeOfBit (v.extractLsb' (8 + n) 1) = (unpack s.ident.bytes).mode := hshift ▸ identValue_mode _
  have hfp : v.extractLsb' (16 + n) 8 = (unpack s.ident.bytes).fp := hshift ▸ identValue_fp _
  have hts : (if v.extractLsb' (8 + n) 1 = 1 then v.extractLsb' 80 48 else 0) = (unpack s.ident.bytes).ts :=
    hshift ▸ identValue_ts _
  have hsigned : (if v.getLsbD 0 then 14 else 15) = offTag (bufTagLen s.ident.bytes) := by
    rw [hflag, bufTagLen]
    cases bufFlag s.ident.bytes <;> rfl
  have hd : d = keyedDigest Config.digest (s.keyring.secret (slotOf (unpack s.ident.bytes).idx))
      (signedBytes s.ident.bytes (bufTagLen s.ident.bytes)) := by
    simp only [d, hidx, hsigned]
    rfl
  rw [hidx, hver, hmode, hfp, hts, hflag]
  refine ⟨rfl, rfl, rfl, rfl, ?_, rfl, ?_⟩
  · simp [State.decoded, decodeResult, typeMatches, fpValue_eq_crc8 hcache.1]
  · exact validTag_eq_true_iff.trans (and_congr_right fun _ => and_congr_right fun _ => tagOk_iff_tagBits hd)

end Sys2Proof.Machine
end

section
/-! GENERATE, and DECODE of what it wrote (44_facade.md R175, R179, R181). A composed identifier is read once as the list
of its parts (`composeIdent_cut`) and once as fields (`unpack_composeIdent`); the layout and the good tag follow from the
first, the round trip, the other label and the altered tag from both. -/

namespace Sys2Proof.Machine

open Sys2Proof.Safety

/-! ### A composed identifier (R175 steps 7 to 9) -/

/-- A part of a buffer's bytes, read through the buffer. -/
theorem bufByte_of_cut {buf : Ident} {front part rest : List Byte} (h : buf.toList = front ++ part ++ rest) {n k : Nat}
    (hn : n = front.length + k) (hk : k < part.length) : bufByte buf n = part.getD k 0 := by
  rw [bufByte_of_toList h, hn, List.append_assoc, List.getD_append_right _ _ _ _ (Nat.le_add_right _ _),
    Nat.add_sub_cancel_left, List.getD_append _ _ _ _ hk]

section
variable {digest : List Byte → List Byte} {secret rb : List Byte} {mode : Mode} {t : TagLen} {time : BitVec 48}
  {fp : Byte} {idx : BitVec 4} {buf : Ident} (hrb : rb.length = randomCount mode t)
  (hbuf : buf = composeIdent digest secret mode t time rb fp idx)
include hrb hbuf

theorem unpack_composeIdent : unpack buf =
    { flag := footerFlag t, t := t, tag := tagField t (keyedDigest digest secret (prefixBytes mode time rb fp idx)),
      idx := idx, ver := 1, mode := mode, fp := fp, ts := if mode = .timeSorted then time else 0,
      signed := prefixBytes mode time rb fp idx } :=
  hbuf ▸ unpack_finish_prefixBytes hrb time fp idx _

/-- The tag signs the bytes that `prefixBytes` lays out (41_digest.md R122). -/
theorem signedBytes_composeIdent : signedBytes buf t = prefixBytes mode time rb fp idx := by
  have hlen := prefixBytes_length hrb time fp idx
  rw [hbuf, signedBytes, composeIdent, finish_toList hlen, List.take_left' hlen]

/-- The layouts of R102: the bytes in ascending order, the tag made from the bytes before it. -/
theorem composeIdent_cut : buf.toList = timestampField mode time ++ rb ++ [fp, infoByte idx 1 mode] ++
    tagField t (keyedDigest digest secret (signedBytes buf t)) := by
  rw [signedBytes_composeIdent hrb hbuf, hbuf]
  exact finish_toList (prefixBytes_length hrb time fp idx) _

theorem bufByte_composeIdent_tag {k : Nat} (hk : k < tagBytes t) :
    bufByte buf (offTag t + k) = (tagField t (keyedDigest digest secret (signedBytes buf t))).getD k 0 := by
  have hlen : (timestampField mode time ++ rb ++ [fp, infoByte idx 1 mode]).length = offTag t :=
    prefixBytes_length hrb time fp idx
  have hcut := composeIdent_cut hrb hbuf
  rw [← List.append_nil (_ ++ tagField _ _)] at hcut
  exact bufByte_of_cut hcut (by rw [hlen]) (by rwa [tagField_length])

/-- A composed identifier has a good tag under its own secret (R124). -/
theorem tagOk_composeIdent : tagOk digest buf t secret = true := by
  have htag := fun k => bufByte_composeIdent_tag hrb hbuf (k := k)
  cases t with
  | one =>
    rw [tagOk_one_iff, show bufByte buf 15 = _ from htag 0 (by decide)]
    exact withFlag_masked _ false
  | two =>
    rw [tagOk_two_iff, show bufByte buf 14 = _ from htag 0 (by decide), show bufByte buf 15 = _ from htag 1 (by decide)]
    exact ⟨rfl, withFlag_masked _ true⟩

end

/-! ### GENERATE (R175) -/

@[simp] theorem Inputs.randomBytes_length (p : Inputs) (n : Nat) : (p.randomBytes n).length = n := by
  simp [Inputs.randomBytes]

theorem toBE_getD {n k : Nat} (h : k < n) (v : Nat) :
    (toBE n v).getD k 0 = BitVec.ofNat 8 (v / 2 ^ (8 * (n - 1 - k))) := by
  simp [toBE, h]

/-- With a consistent cache GENERATE packs the checksum itself (43_fingerprint.md R158). -/
theorem generated_idOut {s : State} (hcache : CacheConsistent s.cache) (label : List Byte) (mode : Mode) (t : TagLen)
    (i : Fin 16) : (s.generated label mode t i).idOut =
      composeIdent Config.digest (s.keyring.secret i) mode t (s.inputs.timestamp mode)
        (s.inputs.randomBytes (randomCount mode t)) (crc8 label) (indexOf i) :=
  fpValue_eq_crc8 hcache.1 label ▸ rfl

/-- Settles O41: each part of the layout is read from the identifier cut into its parts. -/
theorem generateLaysOutTheIdentifier : Obligations.GenerateLaysOutTheIdentifier := by
  intro s label mode t i hready hl hcache hi
  refine ⟨_, exec_generate hready hl hi mode t, ?_⟩
  have hrb := s.inputs.randomBytes_length (randomCount mode t)
  have hbuf := generated_idOut hcache label mode t i
  have hcut := composeIdent_cut hrb hbuf
  have htag := fun k => bufByte_composeIdent_tag hrb hbuf (k := k)
  have hts := timestampField_length mode (s.inputs.timestamp mode)
  have hfields : 14 - tagBytes t =
      (timestampField mode (s.inputs.timestamp mode) ++ s.inputs.randomBytes (randomCount mode t)).length := by
    rw [List.length_append, hts, hrb]
    cases mode <;> cases t <;> rfl
  refine ⟨?_, fun k hk => ?_, ?_, ?_, ?_, ?_, rfl⟩
  · rintro rfl k hk
    rw [bufByte_of_toList hcut, List.append_assoc, List.append_assoc, List.getD_append _ _ _ _ (by rwa [hts])]
    exact toBE_getD hk _
  · rw [List.append_assoc] at hcut
    exact bufByte_of_cut hcut (by rw [hts]) (by rwa [hrb])
  · exact bufByte_of_cut (k := 0) hcut hfields (by simp)
  · have hpos : 15 - tagBytes t = 14 - tagBytes t + 1 := by cases t <;> rfl
    exact bufByte_of_cut hcut (hpos.trans (congrArg (· + 1) hfields)) (by simp)
  · rintro rfl
    exact (htag 0 (by decide)).trans BitVec.or_zero
  · rintro rfl
    exact ⟨htag 0 (by decide), htag 1 (by decide)⟩

/-! ### GENERATE, IDMOV, DECODE (R179, R181 (a)) -/

theorem exists_valid_of_configuredCount {k : Keyring} (h : 1 ≤ configuredCount k) : ∃ j, k.valid j = true := by
  obtain ⟨j, hj⟩ := List.exists_mem_of_length_pos h
  exact ⟨j, (List.mem_filter.1 hj).2⟩

/-- Under the invariant SELECT answers a configured index in READY (42_keyring.md R134). -/
theorem exists_select_of_inv {s : State} (hs : Inv s) (h : s.lifeCycle = .ready) :
    ∃ i, s.keyring.select s.inputs.selectorValue = some i ∧ s.keyring.valid i = true := by
  obtain ⟨hcount, hpos⟩ := hs.keyring
  obtain ⟨hfixed, _, _⟩ := hs.selector
  obtain ⟨j, hj⟩ := exists_valid_of_configuredCount (hcount ▸ hpos h)
  obtain ⟨hselect, _⟩ := selectReturnsAConfiguredIndex s.keyring j hj (hfixed h)
  obtain ⟨i, hi, hv, _⟩ := hselect s.inputs.selectorValue
  exact ⟨i, hi, hv⟩

/-- DECODE of what GENERATE wrote, whatever fingerprint is expected. -/
theorem decodeResult_generated {s : State} {i : Fin 16} (hcache : CacheConsistent s.cache)
    (hv : s.keyring.valid i = true) (label : List Byte) (mode : Mode) (t : TagLen) (fp : Byte) :
    decodeResult Config.digest s.keyring fp (s.generated label mode t i).idOut =
      { validTag := true
        typeMatch := crc8 label == fp
        ts := if mode = .timeSorted then s.inputs.timeSample.setWidth 48 else 0
        secIdx := indexOf i
        mode := mode
        ver := 1
        flag := footerFlag t } := by
  have hrb := s.inputs.randomBytes_length (randomCount mode t)
  have hbuf := generated_idOut hcache label mode t i
  have hunpack := unpack_composeIdent hrb hbuf
  have hvalid : validTag Config.digest s.keyring (s.generated label mode t i).idOut = true := by
    rw [validTag_eq_true_iff, hunpack]
    exact ⟨rfl, hv, tagOk_composeIdent hrb hbuf⟩
  rw [decodeResult, hvalid, hunpack]
  cases mode <;> rfl

/-- With a consistent cache DECODE compares with the checksum itself (43_fingerprint.md R158). -/
theorem decoded_result {s : State} (hcache : CacheConsistent s.cache) (label : List Byte) :
    (s.decoded label).result = decodeResult Config.digest s.keyring (crc8 label) s.ident.bytes :=
  fpValue_eq_crc8 hcache.1 label ▸ rfl

/-- The round trip, the label buffer replaced on the way: `decodeResult_generated` for the fingerprint of the second
label. -/
theorem exists_generate_idmov_decode {s : State} {label label' : List Byte} {buffer' : LabelBuffer} (hs : Inv s)
    (hready : s.lifeCycle = .ready) (hl : labelOperand s.label = .ok label) (hl' : labelOperand buffer' = .ok label')
    (mode : Mode) (t : TagLen) :
    ∃ i s1 s2 s3, s.keyring.select s.inputs.selectorValue = some i ∧
      exec (.generate ((modeBit mode).setWidth 2) (tagBytes t)) s = .next s1 ∧ exec .idmov s1 = .next s2 ∧
      s2.label = s.label ∧ exec .decode { s2 with label := buffer' } = .next s3 ∧ s3.err = 0 ∧ s3.faults = s.faults ∧
      s3.result =
        { validTag := true
          typeMatch := crc8 label == crc8 label'
          ts := if mode = .timeSorted then s.inputs.timeSample.setWidth 48 else 0
          secIdx := indexOf i
          mode := mode
          ver := 1
          flag := footerFlag t } := by
  obtain ⟨i, hi, hv⟩ := exists_select_of_inv hs hready
  have hready1 : (s.generated label mode t i).lifeCycle = .ready := hready
  refine ⟨i, _, _, _, hi, exec_generate hready hl hi mode t, exec_idmov (by simp [hready1]), rfl,
    exec_decode hready rfl hl', rfl, rfl, ?_⟩
  exact (decoded_result (hs.cache.fpFill _ label) label').trans (decodeResult_generated hs.cache hv label mode t _)

/-- Settles O47: the label buffer replaced by itself. -/
theorem generateThenDecodeRoundTrips : Obligations.GenerateThenDecodeRoundTrips := by
  intro s label mode t hs hready hl
  obtain ⟨i, s1, s2, s3, hi, h1, h2, hlabel, h3, herr, hfaults, hresult⟩ :=
    exists_generate_idmov_decode hs hready hl hl mode t
  rw [← hlabel] at h3
  rw [beq_self_eq_true] at hresult
  exact ⟨i, s1, s2, s3, hi, h1, h2, h3, herr, hfaults, hresult⟩

/-- Settles O48. -/
theorem otherLabelMatchesByChecksumOnly : Obligations.OtherLabelMatchesByChecksumOnly := by
  intro s label label' buffer' mode t hs hready hl hl'
  obtain ⟨_, s1, s2, s3, _, h1, h2, _, h3, herr, _, hresult⟩ := exists_generate_idmov_decode hs hready hl hl' mode t
  refine ⟨s1, s2, s3, h1, h2, h3, herr, ?_⟩
  rw [hresult]
  exact ⟨rfl, beq_iff_eq⟩

/-! ### Altered identifiers (R181 (b), (c)) -/

/-- The index is one of the signed bytes. -/
theorem unpack_idx_eq_of_signedBytes_eq {a b : Ident} {t : TagLen} (ha : bufTagLen a = t) (hb : bufTagLen b = t)
    (h : signedBytes a t = signedBytes b t) : (unpack a).idx = (unpack b).idx := by
  have hpos : offInfo t < offTag t := by cases t <;> decide
  have hinfo : bufInfo a (bufTagLen a) = bufInfo b (bufTagLen b) := by
    rw [ha, hb]
    exact bufByte_eq_of_signedBytes_eq h hpos
  exact congrArg infoIndex hinfo

/-- An identifier that agrees with a composed one in the signed bytes and the footer flag has a valid tag only if it is
that identifier (41_digest.md R128). -/
theorem eq_of_validTag {digest : List Byte → List Byte} {k : Keyring} {i : Fin 16} {rb : List Byte} {mode : Mode}
    {t : TagLen} {time : BitVec 48} {fp : Byte} {buf id : Ident} (hrb : rb.length = randomCount mode t)
    (hbuf : buf = composeIdent digest (k.secret i) mode t time rb fp (indexOf i))
    (hsigned : signedBytes id t = signedBytes buf t) (hflag : bufFlag id = bufFlag buf)
    (hvalid : validTag digest k id = true) : id = buf := by
  have hunpack := unpack_composeIdent hrb hbuf
  have htbuf : bufTagLen buf = t := congrArg Unpacked.t hunpack
  have htid : bufTagLen id = t := by rw [bufTagLen, hflag, ← bufTagLen, htbuf]
  have hidx : (unpack id).idx = indexOf i :=
    (unpack_idx_eq_of_signedBytes_eq htid htbuf hsigned).trans (congrArg Unpacked.idx hunpack)
  obtain ⟨_, _, htag⟩ := validTag_eq_true_iff.1 hvalid
  rw [hidx, slotOf_indexOf, show (unpack id).t = t from htid] at htag
  exact eq_of_tagOk htag (tagOk_composeIdent hrb hbuf) hsigned hflag

/-- Settles O49: a valid tag would make the altered identifier the generated one, or meet the version and the index. -/
theorem alteredIdentifiersAreReportedInvalid : Obligations.AlteredIdentifiersAreReportedInvalid := by
  refine ⟨fun s s1 label mode t id hready hl h1 hne hsigned hflag => ?_, fun s label id hready hl hbad => ?_⟩
  · rw [exec_generate_eq hready hl] at h1
    obtain ⟨i, _, rfl⟩ := generate_cases h1
    refine ⟨_, exec_decode hready rfl hl, rfl, Bool.eq_false_iff.2 fun hvalid => hne ?_⟩
    exact eq_of_validTag (s.inputs.randomBytes_length _) rfl hsigned hflag hvalid
  · refine ⟨_, exec_decode hready rfl hl, rfl, Bool.eq_false_iff.2 fun hvalid => ?_, rfl, rfl⟩
    obtain ⟨hver, hconf, _⟩ := validTag_eq_true_iff.1 hvalid
    obtain hver' | hconf' := hbad
    · exact hver' hver
    · exact Bool.false_ne_true (hconf'.symm.trans hconf)

end Sys2Proof.Machine
end

section
/-! Error entry, legality and the ports (60_exceptions.md). That a command word raises an error or completes
(`execWord_outcome`) gives R200 to R203; the legality table (R207) needs in addition that the checks a command makes
after its life-cycle check raise other codes than E_STATE. -/

namespace Sys2Proof.Machine

open Sys2Proof.Safety

/-! ### Error entry (R200, R202) -/

/-- Error entry in terms of the code it leaves in `ERR`. -/
theorem State.raise_eq (s : State) (e : ErrCode) :
    s.raise e = { s with
      err := (s.raise e).err
      faults := s.faults ||| (1#32 <<< (s.raise e).err.toNat)
      lifeCycle := if 3 ≤ (s.raise e).err.toNat ∧ (s.raise e).err.toNat ≤ 7 then .cfgErr else s.lifeCycle } := by
  simp only [State.raise_err_toNat, ← ErrCode.isConfigError_iff]
  rfl

/-- A command word that ends with an error code has raised it. -/
theorem raised_of_err_ne_zero {w : Word} {s t : State} (h : execWord w s = .next t) (herr : t.err ≠ 0) :
    Raised s t := by
  obtain hr | ⟨i, _, hc⟩ := execWord_outcome h
  · exact hr
  · exact absurd hc.err_eq_zero herr

/-- The same, for a code that is known as a number. -/
theorem raised_of_err_pos {w : Word} {s t : State} (h : execWord w s = .next t) (herr : 0 < t.err.toNat) :
    Raised s t :=
  raised_of_err_ne_zero h fun h0 => by simp [h0] at herr

/-- Settles O9: the three writes of `State.raise`, read off its definition. -/
theorem errorEntryIsPrecise : Obligations.ErrorEntryIsPrecise := by
  intro w s t h herr
  obtain ⟨e, _, rfl⟩ := raised_of_err_ne_zero h herr
  have hcode : (s.raise e).err.toNat = e.code := s.raise_err_toNat e
  exact ⟨hcode ▸ e.code_range.1, hcode ▸ e.code_range.2, s.raise_eq e⟩

/-- Settles O14: error entry moves the life cycle for the codes 3 to 7 only. -/
theorem otherErrorsKeepTheLifeCycle : Obligations.OtherErrorsKeepTheLifeCycle := by
  intro w s t h hcode
  obtain hl | ⟨_, _, hlow, hhigh⟩ := (raised_of_err_pos h (by omega)).lifeCycle_eq_or_config
  · exact hl
  · omega

/-! ### No error happened (R203) -/

/-- A word after which `FAULTS` is 0 completed, and `FAULTS` was 0 before it. -/
theorem completed_of_noErrorYet {w : Word} {s t : State} (h : execWord w s = .next t) (ht : NoErrorYet t) :
    NoErrorYet s ∧ t.err = 0 := by
  obtain hr | ⟨i, _, hc⟩ := execWord_outcome h
  · have hbit := hr.faults_getLsbD_err
    rw [show t.faults = 0 from ht] at hbit
    simp at hbit
  · exact ⟨hc.faults_eq.symm.trans ht, hc.err_eq_zero⟩

theorem execWords_cons {w : Word} {s u : State} (h : execWord w s = .next u) (ws : List Word) :
    execWords (w :: ws) s = execWords ws u := by
  rw [execWords, h]

/-- Settles O11, by induction on the words: `FAULTS` is 0 after the first one, by the induction hypothesis. -/
theorem noFaultsMeansEveryCommandCompleted : Obligations.NoFaultsMeansEveryCommandCompleted := by
  intro ws
  induction ws with
  | nil =>
    intro s t h ht
    cases h
    exact ⟨ht, fun n hpos hn => absurd hpos (Nat.not_lt.2 hn)⟩
  | cons w ws ih =>
    intro s t h ht
    obtain ⟨u, hu, hrest⟩ := execWords_cons_cases h
    obtain ⟨hnone, hprefix⟩ := ih u t hrest ht
    obtain ⟨hs, herr⟩ := completed_of_noErrorYet hu hnone
    refine ⟨hs, fun n hpos hn => ?_⟩
    obtain ⟨k, rfl⟩ := Nat.exists_eq_add_one.2 hpos
    rw [List.take_succ_cons, execWords_cons hu]
    cases k with
    | zero => exact ⟨u, rfl, herr⟩
    | succ k => exact hprefix (k + 1) k.succ_pos (Nat.le_of_succ_le_succ hn)

/-! ### The legality table (R207) -/

theorem State.raise_err_ne_two {e : ErrCode} (h : e ≠ .state) (s : State) : (s.raise e).err ≠ 2 := by
  cases e with
  | state => exact absurd rfl h
  | _ => exact nofun

/-- CHECK_LABEL raises no E_STATE (43_fingerprint.md R154). -/
theorem labelOperand_ne_error_state (l : LabelBuffer) : labelOperand l ≠ .error .state := by
  simp [labelOperand_eq_error_iff]

/-- The `ERR` of a completed command is not the code of E_STATE. -/
theorem zero_ne_stateCode : (0 : BitVec 8) ≠ 2 := by decide

/-- Two spellings of the row of R207 that refuses in CFGERR only. -/
theorem config_or_ready_iff {c : LifeCycle} : (c == .config || c == .ready) = true ↔ c ≠ .cfgErr := by
  cases c <;> decide

/-- A command that completes is legal: it has passed its check of the life cycle. -/
theorem Completes.legalIn_eq_true {i : Instr} {s t : State} (h : Completes i s t) : legalIn i s.lifeCycle = true := by
  cases h with
  | nop => rfl
  | keyrst hc | keyput hc | keyload hc | sealKeyring hc | generate hc | decode hc => exact beq_of_eq hc
  | lblrst hc | lblput hc | lblnul hc | idrst hc | idput hc | idmov hc | fprint hc => exact config_or_ready_iff.2 hc

/-- A legal command that does not complete raises an error of its operands or of the keyring, not E_STATE. -/
theorem err_ne_two_of_legalIn {i : Instr} {s t : State} (hl : legalIn i s.lifeCycle = true)
    (h : exec i s = .next t) : t.err ≠ 2 := by
  cases i with
  | nop =>
    obtain rfl := execNop_cases h
    exact zero_ne_stateCode
  | keyrst =>
    obtain ⟨hc, _⟩ | ⟨_, rfl⟩ := execKeyrst_cases h
    · exact absurd (eq_of_beq hl) hc
    · exact zero_ne_stateCode
  | keyput b =>
    obtain ⟨hc, _⟩ | ⟨_, _, rfl⟩ | ⟨_, _, rfl⟩ := execKeyput_cases h
    · exact absurd (eq_of_beq hl) hc
    · exact s.raise_err_ne_two (by decide)
    · exact zero_ne_stateCode
  | keyload idx =>
    obtain ⟨hc, _⟩ | ⟨_, _, rfl⟩ | ⟨_, _, _, rfl⟩ | ⟨_, _, _, _, _, rfl⟩ | ⟨_, _, _, _, _, rfl⟩ := execKeyload_cases h
    · exact absurd (eq_of_beq hl) hc
    · exact s.raise_err_ne_two (by decide)
    · exact s.raise_err_ne_two (by decide)
    · exact s.raise_err_ne_two (by decide)
    · exact zero_ne_stateCode
  | sealKeyring sm fix =>
    obtain ⟨hc, _⟩ | ⟨_, _, rfl⟩ | ⟨_, _, _, rfl⟩ | ⟨_, _, _, rfl⟩ := execSeal_cases h
    · exact absurd (eq_of_beq hl) hc
    · exact s.raise_err_ne_two (by decide)
    · exact s.raise_err_ne_two (by decide)
    · exact zero_ne_stateCode
  | lblrst | lblput | lblnul | idrst | idput | idmov =>
    have hne := config_or_ready_iff.1 hl
    simp only [exec_lblrst hne, exec_lblput hne, exec_lblnul hne, exec_idrst hne, exec_idput hne, exec_idmov hne,
      Host.Outcome.next.injEq] at h
    subst h
    exact zero_ne_stateCode
  | fprint =>
    obtain ⟨hc, _⟩ | ⟨e, _, he, rfl⟩ | ⟨_, _, _, rfl⟩ := execFprint_cases h
    · exact absurd hc (config_or_ready_iff.1 hl)
    · exact s.raise_err_ne_two fun heq => labelOperand_ne_error_state _ (heq ▸ he)
    · exact zero_ne_stateCode
  | generate md tl =>
    obtain ⟨hc, _⟩ | ⟨e, _, he, rfl⟩ | ⟨_, _, _, _, rfl⟩ | ⟨_, _, _, _, _, _, rfl⟩ | ⟨_, _, _, _, _, _, _, _, _, rfl⟩ :=
      execGenerate_cases h
    · exact absurd (eq_of_beq hl) hc
    · exact s.raise_err_ne_two fun heq => labelOperand_ne_error_state _ (heq ▸ he)
    · exact s.raise_err_ne_two (by decide)
    · exact s.raise_err_ne_two (by decide)
    · exact zero_ne_stateCode
  | decode =>
    obtain ⟨hc, _⟩ | ⟨_, _, rfl⟩ | ⟨_, e, _, _, he, rfl⟩ | ⟨_, _, _, _, _, rfl⟩ := execDecode_cases h
    · exact absurd (eq_of_beq hl) hc
    · exact s.raise_err_ne_two (by decide)
    · exact s.raise_err_ne_two fun heq => labelOperand_ne_error_state _ (heq ▸ he)
    · exact zero_ne_stateCode

/-- Settles O12. -/
theorem legalityTableDecidesStateErrors : Obligations.LegalityTableDecidesStateErrors :=
  fun _ s => ⟨fun hl => s.raise_state ▸ exec_of_not_legalIn hl, fun hl _ h => err_ne_two_of_legalIn hl h⟩

/-! ### Configuration errors (R201) -/

/-- In CFGERR the legality table refuses every command but NOP. -/
theorem legalIn_cfgErr {i : Instr} (hi : i ≠ .nop) : legalIn i .cfgErr = false := by
  cases i with
  | nop => exact absurd rfl hi
  | _ => rfl

/-- In CFGERR a word raises an error or is a NOP, so that it writes neither `ID_OUT` nor the decode result. -/
theorem execWord_keeps_results_of_cfgErr {w : Word} {s t : State} (hs : s.lifeCycle = .cfgErr)
    (h : execWord w s = .next t) : t.idOut = s.idOut ∧ t.result = s.result := by
  obtain ⟨e, _, rfl⟩ | ⟨i, _, hc⟩ := execWord_outcome h
  · exact ⟨rfl, rfl⟩
  · have hi : i = .nop := by
      by_contra hne
      exact absurd (hs ▸ hc.legalIn_eq_true) (by simp [legalIn_cfgErr hne])
    subst hi
    cases hc
    exact ⟨rfl, rfl⟩

/-- Settles O13: error entry in CONFIG, the legality table's column of CFGERR, and that column along a run. -/
theorem configurationErrorsAreFinal : Obligations.ConfigurationErrorsAreFinal := by
  refine ⟨fun w s t h hlow hhigh => ?_, fun i s hs hi => exec_of_cfgErr hs (legalIn_cfgErr hi),
    fun ws s t hs h => ?_⟩
  · obtain ⟨e, hcfg, rfl⟩ := raised_of_err_pos h (by omega)
    rw [State.raise_err_toNat] at hlow hhigh
    have he : e.isConfigError = true := e.isConfigError_iff.2 ⟨hlow, hhigh⟩
    exact ⟨hcfg he, by simp [he], rfl⟩
  · refine execWords_keeps (P := fun u => u.lifeCycle = .cfgErr ∧ u.idOut = s.idOut ∧ u.result = s.result) ?_
      ⟨hs, rfl, rfl⟩ h
    rintro w u v ⟨hu, hid, hres⟩ hw
    obtain ⟨_, hl⟩ := execWord_keyring_lifeCycle_eq (by simp [hu]) hw
    obtain ⟨hid', hres'⟩ := execWord_keeps_results_of_cfgErr hu hw
    exact ⟨hl.trans hu, hid'.trans hid, hres'.trans hres⟩

/-! ### The ports of a GENERATE (R212 to R214) -/

/-- The selector port is read once under the random policy, and no other port with it (R214). -/
theorem Keyring.tookSelection_eq (k : Keyring) (p : Inputs) : k.tookSelection p =
    { p with
      selectorTaken := p.selectorTaken + (if k.selMode = .random then 1 else 0)
      selector := p.selector.drop (if k.selMode = .random then 1 else 0) } := by
  unfold Keyring.tookSelection
  cases k.selMode with
  | random => simp [Inputs.tookSelector]
  | fixed => simp

/-- The time port is read once in mode TIME_SORTED, and no other port with it (R212). -/
theorem Inputs.tookTimestamp_eq (p : Inputs) (mode : Mode) : p.tookTimestamp mode =
    { p with
      timeTaken := p.timeTaken + (if mode = .timeSorted then 1 else 0)
      time := p.time.drop (if mode = .timeSorted then 1 else 0) } := by
  cases mode with
  | random => simp [Inputs.tookTimestamp]
  | timeSorted => simp [Inputs.tookTimestamp, Inputs.tookTime]

/-- A GENERATE that ends without error has done steps 3 to 10 of R175. -/
theorem exec_generate_cases {s u : State} {mode : Mode} {t : TagLen}
    (h : exec (.generate ((modeBit mode).setWidth 2) (tagBytes t)) s = .next u) (hu : u.err = 0) :
    ∃ label i, u = s.generated label mode t i := by
  obtain hr | hc := exec_cases h
  · exact absurd hu hr.err_ne_zero
  · generalize hmd : (modeBit mode).setWidth 2 = md at hc
    generalize htl : tagBytes t = tl at hc
    cases hc with
    | @generate _ _ _ label mode' t' i hready hl hm ht hi =>
      rw [← hmd, modeOperand_modeBit] at hm
      rw [← htl, tagLenOperand_tagBytes] at ht
      cases hm
      cases ht
      exact ⟨label, i, rfl⟩

/-- Settles O42: the reads of the three ports, one after another. -/
theorem generateReadsThePortsAsStated : Obligations.GenerateReadsThePortsAsStated := by
  intro s u mode t h hu
  obtain ⟨label, i, rfl⟩ := exec_generate_cases h hu
  simp [State.generated, Keyring.tookSelection_eq, Inputs.tookTimestamp_eq, randomCount]

end Sys2Proof.Machine
end

section
/-! Every step completes (70_reset_and_hazards.md R234): each path of each command answers a next state, but for GENERATE
with no index to select, and READY under the invariant always has one (42_keyring.md R134). -/

namespace Sys2Proof.Machine

open Sys2Proof.Safety

/-! ### Outcomes that are a next state -/

/-- Neither a fault nor a refusal. -/
def Answers (o : Host.Outcome State Fault Refusal) : Prop := ∃ t, o = .next t

theorem Answers.next (t : State) : Answers (.next t) := ⟨t, rfl⟩

/-- The form of every check: it raises its error, or what comes after it answers, given that the check has passed. -/
theorem Answers.check {c : Prop} [Decidable c] {t : State} {o : Host.Outcome State Fault Refusal}
    (ho : ¬ c → Answers o) : Answers (if c then .next t else o) := by
  split
  · exact .next t
  · exact ho ‹_›

/-! ### The commands with operands to look up -/

theorem execKeyload_answers (idx : Int) (s : State) : Answers (execKeyload idx s) := by
  refine .check fun _ => .check fun _ => ?_
  cases keyIndex idx with
  | none => exact .next _
  | some i => exact .check fun _ => .next _

theorem execFprint_answers (s : State) : Answers (execFprint s) := by
  refine .check fun _ => ?_
  cases labelOperand s.label <;> exact .next _

theorem execDecode_answers (s : State) : Answers (execDecode s) := by
  refine .check fun _ => ?_
  cases identOperand s.ident with
  | none => exact .next _
  | some buf => cases labelOperand s.label <;> exact .next _

/-- GENERATE reaches its selection in READY only, where the invariant gives it an index. -/
theorem execGenerate_answers {s : State} (hs : Inv s) (md : BitVec 2) (tl : Nat) : Answers (execGenerate md tl s) := by
  refine .check fun hc => ?_
  obtain ⟨i, hi, _⟩ := exists_select_of_inv hs (not_not.1 hc)
  cases labelOperand s.label with
  | error e => exact .next _
  | ok label =>
    cases modeOperand md with
    | none => exact .next _
    | some mode =>
      cases tagLenOperand tl with
      | none => exact .next _
      | some t => exact ⟨_, generate_of_select hi⟩

/-! ### Any command, any word, any step -/

theorem exec_answers {s : State} (hs : Inv s) (i : Instr) : Answers (exec i s) := by
  cases i with
  | nop => exact .next _
  | keyrst | lblrst | lblput | lblnul | idrst | idput | idmov => exact .check fun _ => .next _
  | keyput => exact .check fun _ => .check fun _ => .next _
  | keyload idx => exact execKeyload_answers idx s
  | sealKeyring => exact .check fun _ => .check fun _ => .check fun _ => .next _
  | fprint => exact execFprint_answers s
  | generate md tl => exact execGenerate_answers hs md tl
  | decode => exact execDecode_answers s

/-- A word that decodes to no command is no refusal: it raises E_ILLEGAL (30_encoding.md R85, R87). -/
theorem execWord_answers {s : State} (hs : Inv s) (w : Word) : Answers (execWord w s) := by
  cases h : decodeWord w with
  | ok i => exact execWord_of_decodeWord h s ▸ exec_answers hs i
  | error e => exact ⟨s.raise .illegal, by rw [execWord, h]⟩

/-- Settles O56, by the oldest input of the host: none, a reset, or a command word. -/
theorem everyStepCompletes : Obligations.EveryStepCompletes := by
  intro s hs
  cases hhost : s.inputs.host with
  | nil => exact ⟨s, by rw [step, hhost]⟩
  | cons x rest =>
    cases x with
    | reset => exact ⟨(s.withHost rest).applyReset, by rw [step, hhost]; rfl⟩
    | command w => exact step_of_host_command hhost ▸ execWord_answers (hs.with_inputs _) w

end Sys2Proof.Machine
end
